-- ==== Sys2Proof/Word.lean ====
section
/-! DEFINITION. The widths of 00_scope.md R9 and R12: bytes, 16-bit words, 12-bit addresses, nibbles,
and the two kinds of index (registers, keys). -/

namespace Sys2Proof

/-- A `u8`: a register, a timer, a byte of memory (00_scope.md R9, R12). -/
abbrev Byte := BitVec 8

/-- A `u16`: an instruction word, `PC`, `I`, a stack entry (00_scope.md R9, R12). -/
abbrev Word := BitVec 16

/-- An address of `MEM`, `ADDR_BITS` = 12 (00_scope.md R9): exactly the addresses that exist. -/
abbrev Addr := BitVec 12

/-- A 4-bit field of an instruction word (00_scope.md R17). -/
abbrev Nibble := BitVec 4

/-- A register index, 0 to 15 by construction (10_state.md R22). -/
abbrev Reg := Fin 16

/-- A key index, 0x0 to 0xF (10_state.md R48). -/
abbrev Key := Fin 16

end Sys2Proof
end

