-- ==== Sys2Proof/Syntax.lean ====
section
/-! DEFINITION. The instruction set: one constructor per row of 30_encoding.md R94, in the table's order, each with
the operand fields of its format (R91, R92). A field that the instruction decodes and ignores (R96) is kept, so that
an instruction names its word exactly. -/

namespace Sys2Proof

/-- The 35 instructions of 30_encoding.md R94. -/
inductive Instr where
  /-- `00E0` `CLS` (44_display.md R190). -/
  | cls
  /-- `00EE` `RET` (40_control_flow.md R122). -/
  | ret
  /-- `0nnn` `SYS addr`, not 00E0 and not 00EE; `addr` is ignored (40_control_flow.md R128). -/
  | sys (addr : Addr)
  /-- `1nnn` `JP addr` (40_control_flow.md R120). -/
  | jp (addr : Addr)
  /-- `2nnn` `CALL addr` (40_control_flow.md R121). -/
  | call (addr : Addr)
  /-- `3xkk` `SE Vx, kk` (40_control_flow.md R123). -/
  | seImm (x : Reg) (kk : Byte)
  /-- `4xkk` `SNE Vx, kk` (40_control_flow.md R124). -/
  | sneImm (x : Reg) (kk : Byte)
  /-- `5xy0` `SE Vx, Vy` (40_control_flow.md R125). -/
  | seReg (x y : Reg)
  /-- `6xkk` `LD Vx, kk` (41_load_arith.md R140). -/
  | ldImm (x : Reg) (kk : Byte)
  /-- `7xkk` `ADD Vx, kk` (41_load_arith.md R141). -/
  | addImm (x : Reg) (kk : Byte)
  /-- `8xy0` `LD Vx, Vy` (41_load_arith.md R142). -/
  | ldReg (x y : Reg)
  /-- `8xy1` `OR Vx, Vy` (41_load_arith.md R143). -/
  | orReg (x y : Reg)
  /-- `8xy2` `AND Vx, Vy` (41_load_arith.md R144). -/
  | andReg (x y : Reg)
  /-- `8xy3` `XOR Vx, Vy` (41_load_arith.md R145). -/
  | xorReg (x y : Reg)
  /-- `8xy4` `ADD Vx, Vy` (41_load_arith.md R146). -/
  | addReg (x y : Reg)
  /-- `8xy5` `SUB Vx, Vy` (41_load_arith.md R147). -/
  | subReg (x y : Reg)
  /-- `8x-6` `SHR Vx`; `y` is ignored (42_shift_random.md R160, 30_encoding.md R96). -/
  | shr (x y : Reg)
  /-- `8xy7` `SUBN Vx, Vy` (41_load_arith.md R148). -/
  | subnReg (x y : Reg)
  /-- `8x-E` `SHL Vx`; `y` is ignored (42_shift_random.md R161, 30_encoding.md R96). -/
  | shl (x y : Reg)
  /-- `9xy0` `SNE Vx, Vy` (40_control_flow.md R126). -/
  | sneReg (x y : Reg)
  /-- `Annn` `LD I, addr` (43_index_memory.md R170). -/
  | ldI (addr : Addr)
  /-- `Bnnn` `JP V0, addr` (40_control_flow.md R127). -/
  | jpV0 (addr : Addr)
  /-- `Cxkk` `RND Vx, kk` (42_shift_random.md R162). -/
  | rnd (x : Reg) (kk : Byte)
  /-- `Dxyn` `DRW Vx, Vy, n` (44_display.md R191). -/
  | drw (x y : Reg) (n : Nibble)
  /-- `Ex9E` `SKP Vx` (45_keypad.md R211). -/
  | skp (x : Reg)
  /-- `ExA1` `SKNP Vx` (45_keypad.md R212). -/
  | sknp (x : Reg)
  /-- `Fx07` `LD Vx, DT` (46_timer.md R220). -/
  | ldVxDt (x : Reg)
  /-- `Fx0A` `LD Vx, K` (45_keypad.md R213). -/
  | ldVxKey (x : Reg)
  /-- `Fx15` `LD DT, Vx` (46_timer.md R221). -/
  | ldDtVx (x : Reg)
  /-- `Fx18` `LD ST, Vx` (46_timer.md R222). -/
  | ldStVx (x : Reg)
  /-- `Fx1E` `ADD I, Vx` (43_index_memory.md R171). -/
  | addI (x : Reg)
  /-- `Fx29` `LD F, Vx` (43_index_memory.md R172). -/
  | ldFont (x : Reg)
  /-- `Fx33` `LD B, Vx` (43_index_memory.md R173). -/
  | ldBcd (x : Reg)
  /-- `Fx55` `LD [I], Vx` (43_index_memory.md R174). -/
  | storeRegs (x : Reg)
  /-- `Fx65` `LD Vx, [I]` (43_index_memory.md R175). -/
  | loadRegs (x : Reg)
  deriving DecidableEq, Repr

end Sys2Proof
end

