-- ==== Sys2Proof/WellFormed.lean ====
section
/-! DEFINITION. Which terms of `Instr` are instructions of the machine. Operand ranges hold by type (30_encoding.md
R92); what is left to check is that `SYS addr` is not one of the two words that rows `CLS` and `RET` take
(30_encoding.md R93, R97). -/

namespace Sys2Proof

/-- `SYS addr` names the words 0x0000 to 0x0FFF "other than 0x00E0 and 0x00EE" (30_encoding.md R97). -/
def Instr.wellFormed : Instr → Bool
  | .sys addr => addr != 0x0E0#12 && addr != 0x0EE#12
  | _ => true

end Sys2Proof
end

