-- ==== Sys2Proof/Decode.lean ====
section
/-! DEFINITION. The decoder of 30_encoding.md R93 (by the leading nibble, then an exact match of the trailing ones),
total on every word and rejecting by name; the encoder, written from the formats of R91 and the rows of R94; and the
opcode map of R94 as a list of rows. -/

namespace Sys2Proof

/-! ### Fields of an instruction word (00_scope.md R15, 30_encoding.md R92) -/

/-- `n3` = `w[15:12]`, the leading nibble. -/
def fieldN3 (w : Word) : Nibble := w.extractLsb' 12 4
/-- `x` = `w[11:8]`. -/
def fieldX (w : Word) : Reg := (w.extractLsb' 8 4).toFin
/-- `y` = `w[7:4]`. -/
def fieldY (w : Word) : Reg := (w.extractLsb' 4 4).toFin
/-- `n` = `w[3:0]`. -/
def fieldN (w : Word) : Nibble := w.extractLsb' 0 4
/-- `kk` = `w[7:0]`. -/
def fieldKk (w : Word) : Byte := w.extractLsb' 0 8
/-- `addr` = `w[11:0]`. -/
def fieldAddr (w : Word) : Addr := w.extractLsb' 0 12

/-! ### Decoding -/

/-- Why bytes decode to no instruction. The five kinds of word are those of 30_encoding.md R100; each is a silent
no-op when it is executed (R99). -/
inductive DecodeReject where
  /-- Fewer than two bytes: every instruction is one 16-bit word (R90). -/
  | truncated
  /-- `5xyN` with `N` in 1 to F. -/
  | unknownGroup5 (w : Word)
  /-- `8xyN` with `N` in 8 to D or F. -/
  | unknownGroup8 (w : Word)
  /-- `9xyN` with `N` in 1 to F. -/
  | unknownGroup9 (w : Word)
  /-- `Exkk` with `kk` neither 9E nor A1. -/
  | unknownGroupE (w : Word)
  /-- `Fxkk` with `kk` not one of the nine of rows 27 to 35. -/
  | unknownGroupF (w : Word)
  deriving DecidableEq, Repr

/-- Group 0: `CLS` and `RET` "are tested before row `SYS`, whose pattern contains theirs" (30_encoding.md R93). -/
def decodeGroup0 (w : Word) : Except DecodeReject Instr :=
  if w = 0x00E0#16 then .ok .cls
  else if w = 0x00EE#16 then .ok .ret
  else .ok (.sys (fieldAddr w))

/-- Group 8: one trailing nibble (30_encoding.md R94 rows 11 to 19). -/
def decodeGroup8 (w : Word) : Except DecodeReject Instr :=
  match (fieldN w).toNat with
  | 0x0 => .ok (.ldReg (fieldX w) (fieldY w))
  | 0x1 => .ok (.orReg (fieldX w) (fieldY w))
  | 0x2 => .ok (.andReg (fieldX w) (fieldY w))
  | 0x3 => .ok (.xorReg (fieldX w) (fieldY w))
  | 0x4 => .ok (.addReg (fieldX w) (fieldY w))
  | 0x5 => .ok (.subReg (fieldX w) (fieldY w))
  | 0x6 => .ok (.shr (fieldX w) (fieldY w))
  | 0x7 => .ok (.subnReg (fieldX w) (fieldY w))
  | 0xE => .ok (.shl (fieldX w) (fieldY w))
  | _ => .error (.unknownGroup8 w)

/-- Group E: two trailing nibbles (30_encoding.md R94 rows 25 and 26). -/
def decodeGroupE (w : Word) : Except DecodeReject Instr :=
  if fieldKk w = 0x9E#8 then .ok (.skp (fieldX w))
  else if fieldKk w = 0xA1#8 then .ok (.sknp (fieldX w))
  else .error (.unknownGroupE w)

/-- Group F: two trailing nibbles (30_encoding.md R94 rows 27 to 35). -/
def decodeGroupF (w : Word) : Except DecodeReject Instr :=
  if fieldKk w = 0x07#8 then .ok (.ldVxDt (fieldX w))
  else if fieldKk w = 0x0A#8 then .ok (.ldVxKey (fieldX w))
  else if fieldKk w = 0x15#8 then .ok (.ldDtVx (fieldX w))
  else if fieldKk w = 0x18#8 then .ok (.ldStVx (fieldX w))
  else if fieldKk w = 0x1E#8 then .ok (.addI (fieldX w))
  else if fieldKk w = 0x29#8 then .ok (.ldFont (fieldX w))
  else if fieldKk w = 0x33#8 then .ok (.ldBcd (fieldX w))
  else if fieldKk w = 0x55#8 then .ok (.storeRegs (fieldX w))
  else if fieldKk w = 0x65#8 then .ok (.loadRegs (fieldX w))
  else .error (.unknownGroupF w)

/-- The decoder of 30_encoding.md R93, on one instruction word. "Decoding depends on the word alone." -/
def decode (w : Word) : Except DecodeReject Instr :=
  match (fieldN3 w).toNat with
  | 0x0 => decodeGroup0 w
  | 0x1 => .ok (.jp (fieldAddr w))
  | 0x2 => .ok (.call (fieldAddr w))
  | 0x3 => .ok (.seImm (fieldX w) (fieldKk w))
  | 0x4 => .ok (.sneImm (fieldX w) (fieldKk w))
  | 0x5 => if fieldN w = 0#4 then .ok (.seReg (fieldX w) (fieldY w)) else .error (.unknownGroup5 w)
  | 0x6 => .ok (.ldImm (fieldX w) (fieldKk w))
  | 0x7 => .ok (.addImm (fieldX w) (fieldKk w))
  | 0x8 => decodeGroup8 w
  | 0x9 => if fieldN w = 0#4 then .ok (.sneReg (fieldX w) (fieldY w)) else .error (.unknownGroup9 w)
  | 0xA => .ok (.ldI (fieldAddr w))
  | 0xB => .ok (.jpV0 (fieldAddr w))
  | 0xC => .ok (.rnd (fieldX w) (fieldKk w))
  | 0xD => .ok (.drw (fieldX w) (fieldY w) (fieldN w))
  | 0xE => decodeGroupE w
  | _ => decodeGroupF w

/-- The word that two consecutive bytes form: "big-endian, forming a 16-bit instruction word" (20_memory.md R63). -/
def wordOfBytes (hi lo : Byte) : Word := hi ++ lo

/-- The decoder on a stream of bytes: the instruction and the bytes after it. -/
def decodeBytes : List Byte → Except DecodeReject (Instr × List Byte)
  | hi :: lo :: rest => (decode (wordOfBytes hi lo)).map (·, rest)
  | _ => .error .truncated

/-! ### Encoding -/

/-- Format `A`: `n3`, `addr` (30_encoding.md R91). -/
def formatA (n3 : Nibble) (addr : Addr) : Word := n3 ++ addr
/-- Formats `XK` and `X`: `n3`, `x`, then 8 bits that are `kk` or a sub-opcode (30_encoding.md R91). -/
def formatXK (n3 : Nibble) (x : Reg) (kk : Byte) : Word := n3 ++ (BitVec.ofFin (w := 4) x ++ kk)
/-- Formats `XY` and `XYN`: `n3`, `x`, `y`, then 4 bits that are a sub-opcode or `n` (30_encoding.md R91). -/
def formatXYN (n3 : Nibble) (x y : Reg) (n : Nibble) : Word :=
  n3 ++ (BitVec.ofFin (w := 4) x ++ (BitVec.ofFin (w := 4) y ++ n))

/-- The word of an instruction (30_encoding.md R94). -/
def encode : Instr → Word
  | .cls => 0x00E0#16
  | .ret => 0x00EE#16
  | .sys addr => formatA 0x0#4 addr
  | .jp addr => formatA 0x1#4 addr
  | .call addr => formatA 0x2#4 addr
  | .seImm x kk => formatXK 0x3#4 x kk
  | .sneImm x kk => formatXK 0x4#4 x kk
  | .seReg x y => formatXYN 0x5#4 x y 0x0#4
  | .ldImm x kk => formatXK 0x6#4 x kk
  | .addImm x kk => formatXK 0x7#4 x kk
  | .ldReg x y => formatXYN 0x8#4 x y 0x0#4
  | .orReg x y => formatXYN 0x8#4 x y 0x1#4
  | .andReg x y => formatXYN 0x8#4 x y 0x2#4
  | .xorReg x y => formatXYN 0x8#4 x y 0x3#4
  | .addReg x y => formatXYN 0x8#4 x y 0x4#4
  | .subReg x y => formatXYN 0x8#4 x y 0x5#4
  | .shr x y => formatXYN 0x8#4 x y 0x6#4
  | .subnReg x y => formatXYN 0x8#4 x y 0x7#4
  | .shl x y => formatXYN 0x8#4 x y 0xE#4
  | .sneReg x y => formatXYN 0x9#4 x y 0x0#4
  | .ldI addr => formatA 0xA#4 addr
  | .jpV0 addr => formatA 0xB#4 addr
  | .rnd x kk => formatXK 0xC#4 x kk
  | .drw x y n => formatXYN 0xD#4 x y n
  | .skp x => formatXK 0xE#4 x 0x9E#8
  | .sknp x => formatXK 0xE#4 x 0xA1#8
  | .ldVxDt x => formatXK 0xF#4 x 0x07#8
  | .ldVxKey x => formatXK 0xF#4 x 0x0A#8
  | .ldDtVx x => formatXK 0xF#4 x 0x15#8
  | .ldStVx x => formatXK 0xF#4 x 0x18#8
  | .addI x => formatXK 0xF#4 x 0x1E#8
  | .ldFont x => formatXK 0xF#4 x 0x29#8
  | .ldBcd x => formatXK 0xF#4 x 0x33#8
  | .storeRegs x => formatXK 0xF#4 x 0x55#8
  | .loadRegs x => formatXK 0xF#4 x 0x65#8

/-! ### The opcode map as rows (30_encoding.md R94, R105) -/

/-- One row of 30_encoding.md R94: its number, its `mask` and its `match`. -/
structure OpcodeRow where
  row : Nat
  mask : Word
  fixed : Word
  deriving DecidableEq, Repr

/-- The 35 rows, in the table's order. -/
def opcodeRows : List OpcodeRow :=
  [⟨1, 0xFFFF, 0x00E0⟩, ⟨2, 0xFFFF, 0x00EE⟩, ⟨3, 0xF000, 0x0000⟩, ⟨4, 0xF000, 0x1000⟩, ⟨5, 0xF000, 0x2000⟩] ++
  [⟨6, 0xF000, 0x3000⟩, ⟨7, 0xF000, 0x4000⟩, ⟨8, 0xF00F, 0x5000⟩, ⟨9, 0xF000, 0x6000⟩, ⟨10, 0xF000, 0x7000⟩] ++
  [⟨11, 0xF00F, 0x8000⟩, ⟨12, 0xF00F, 0x8001⟩, ⟨13, 0xF00F, 0x8002⟩, ⟨14, 0xF00F, 0x8003⟩, ⟨15, 0xF00F, 0x8004⟩] ++
  [⟨16, 0xF00F, 0x8005⟩, ⟨17, 0xF00F, 0x8006⟩, ⟨18, 0xF00F, 0x8007⟩, ⟨19, 0xF00F, 0x800E⟩, ⟨20, 0xF00F, 0x9000⟩] ++
  [⟨21, 0xF000, 0xA000⟩, ⟨22, 0xF000, 0xB000⟩, ⟨23, 0xF000, 0xC000⟩, ⟨24, 0xF000, 0xD000⟩, ⟨25, 0xF0FF, 0xE09E⟩] ++
  [⟨26, 0xF0FF, 0xE0A1⟩, ⟨27, 0xF0FF, 0xF007⟩, ⟨28, 0xF0FF, 0xF00A⟩, ⟨29, 0xF0FF, 0xF015⟩, ⟨30, 0xF0FF, 0xF018⟩] ++
  [⟨31, 0xF0FF, 0xF01E⟩, ⟨32, 0xF0FF, 0xF029⟩, ⟨33, 0xF0FF, 0xF033⟩, ⟨34, 0xF0FF, 0xF055⟩, ⟨35, 0xF0FF, 0xF065⟩]

/-- "an instruction is selected when `(w & mask) == match` for its row" (30_encoding.md R93). -/
def OpcodeRow.selects (r : OpcodeRow) (w : Word) : Bool := w &&& r.mask == r.fixed

/-- "A decoder applies the rows in order and takes the first" (30_encoding.md R105): the number of that row. -/
def firstRow (w : Word) : Option Nat := (opcodeRows.find? (·.selects w)).map (·.row)

/-- The number of an instruction's row in 30_encoding.md R94. -/
def Instr.row : Instr → Nat
  | .cls => 1
  | .ret => 2
  | .sys _ => 3
  | .jp _ => 4
  | .call _ => 5
  | .seImm _ _ => 6
  | .sneImm _ _ => 7
  | .seReg _ _ => 8
  | .ldImm _ _ => 9
  | .addImm _ _ => 10
  | .ldReg _ _ => 11
  | .orReg _ _ => 12
  | .andReg _ _ => 13
  | .xorReg _ _ => 14
  | .addReg _ _ => 15
  | .subReg _ _ => 16
  | .shr _ _ => 17
  | .subnReg _ _ => 18
  | .shl _ _ => 19
  | .sneReg _ _ => 20
  | .ldI _ => 21
  | .jpV0 _ => 22
  | .rnd _ _ => 23
  | .drw _ _ _ => 24
  | .skp _ => 25
  | .sknp _ => 26
  | .ldVxDt _ => 27
  | .ldVxKey _ => 28
  | .ldDtVx _ => 29
  | .ldStVx _ => 30
  | .addI _ => 31
  | .ldFont _ => 32
  | .ldBcd _ => 33
  | .storeRegs _ => 34
  | .loadRegs _ => 35

/-! ### The table's words, for the host -/

/-- The bytes of the opcode table's word `w` of `nbits` bits as the hardware stores them, big-endian
(30_encoding.md R90): the high byte first. Bits above `nbits` are 0. -/
def tableBytes (nbits w : Nat) : Byte × Byte :=
  let v := w % 2 ^ nbits
  (BitVec.ofNat 8 (v / 256), BitVec.ofNat 8 v)

/-- What the decoder reads from the opcode table's word `w`. -/
def decodeTableWord (nbits w : Nat) : Option Instr :=
  match decodeBytes [(tableBytes nbits w).1, (tableBytes nbits w).2] with
  | .ok (i, _) => some i
  | .error _ => none

end Sys2Proof
end

