-- ==== Sys2Proof/Machine/Flags.lean ====
section
/-! DEFINITION. Every result and flag computation of the ISA, on unsigned 8-bit values, exact first and narrowed at
the end (41_load_arith.md R149). A flag is the byte 0x00 or 0x01 (10_state.md R26). -/

namespace Sys2Proof.Machine

/-- "Flag value must be 0/1, not a raw masked byte" (10_state.md R26). -/
def flagByte (b : Bool) : Byte := if b then 1#8 else 0#8

/-- `(a + b) mod 256` (41_load_arith.md R146). -/
def sumByte (a b : Byte) : Byte := BitVec.ofNat 8 (a.toNat + b.toNat)

/-- "sets the overflow flag iff a + b > 255" (41_load_arith.md R149). -/
def carryFlag (a b : Byte) : Bool := decide (a.toNat + b.toNat > 255)

/-- `(a − b) mod 256` (41_load_arith.md R147). -/
def differenceByte (a b : Byte) : Byte := BitVec.ofNat 8 (a.toNat + 256 - b.toNat)

/-- "sets the flag to 1 iff a ≥ b": no borrow (41_load_arith.md R147). -/
def noBorrowFlag (a b : Byte) : Bool := decide (a.toNat ≥ b.toNat)

/-- `a >> 1`, logical (42_shift_random.md R160). -/
def shiftRightByte (a : Byte) : Byte := BitVec.ofNat 8 (a.toNat / 2)

/-- Bit 0 of the operand before the shift (42_shift_random.md R160). -/
def shiftRightFlag (a : Byte) : Bool := a.getLsbD 0

/-- `(a << 1) mod 256` (42_shift_random.md R161). -/
def shiftLeftByte (a : Byte) : Byte := BitVec.ofNat 8 (2 * a.toNat)

/-- Bit 7 of the operand before the shift (42_shift_random.md R161). -/
def shiftLeftFlag (a : Byte) : Bool := a.getLsbD 7

/-- `VF` after `DRW` (44_display.md R191): with `DRW_VF_INVERTED` true, 1 exactly when no collision is reported; with
it false the two values are exchanged. -/
def drawFlag (inverted collision : Bool) : Bool := if inverted then !collision else collision

/-- The hundreds digit (43_index_memory.md R173). -/
def hundredsDigit (v : Byte) : Byte := BitVec.ofNat 8 (v.toNat / 100)

/-- The tens digit (43_index_memory.md R173). -/
def tensDigit (v : Byte) : Byte := BitVec.ofNat 8 (v.toNat / 10 % 10)

/-- The units digit (43_index_memory.md R173). -/
def unitsDigit (v : Byte) : Byte := BitVec.ofNat 8 (v.toNat % 10)

end Sys2Proof.Machine
end

