-- ==== Sys2Proof/Config.lean ====
section
/-! DEFINITION. What an implementation fixes (00_scope.md R9, R10) and the one free value, the random byte
(42_shift_random.md R163). The values this hardware takes for the fields of `Config` stand in
Sys2Proof/Machine/Hardware.lean. -/

namespace Sys2Proof

/-- The open parameters of 00_scope.md R10. -/
structure Config where
  /-- `PROGRAM_START`: where a ROM is loaded and execution starts. -/
  programStart : Word
  /-- `FONT_BASE`: the address of glyph 0. -/
  fontBase : Word
  /-- `FONT_DATA`: the font bytes, glyph 0 first, top row of each glyph first. -/
  fontData : List Byte
  /-- `DRW_VF_INVERTED`: true when `VF` = 1 after a `DRW` means "no collision". -/
  drwVfInverted : Bool
  deriving DecidableEq, Repr

namespace Config

/-- `MEM_SIZE` (00_scope.md R9). -/
def memSize : Nat := 4096

/-- `STACK_DEPTH` (00_scope.md R9). -/
def stackDepth : Nat := 16

/-- `GLYPH_HEIGHT` (00_scope.md R9). -/
def glyphHeight : Nat := 5

/-- The constraint of 00_scope.md R10: `FONT_BASE` + 80 ≤ `PROGRAM_START` ≤ `MEM_SIZE` − 2, over 80 font bytes. -/
def valid (c : Config) : Bool :=
  c.fontData.length == 80 && c.fontBase.toNat + 80 ≤ c.programStart.toNat && c.programStart.toNat ≤ memSize - 2

/-- `MAX_ROM` = `MEM_SIZE` − `PROGRAM_START` (00_scope.md R10). -/
def maxRom (c : Config) : Nat := memSize - c.programStart.toNat

/-- FREE VALUE: the byte on the port `rnd_in` at the `k`-th draw (42_shift_random.md R163: "every one of the 256
values is possible at every draw"). It has no body, so nothing can be proved about which byte it is (log 3). -/
opaque rndIn : Nat → Byte

end Config
end Sys2Proof
end

