-- ==== Sys2Proof/Machine/Hardware.lean ====
section
/-! DEFINITION. The values this hardware takes for the parameters of 00_scope.md R10 (log 1, log 2): the defaults
that rule shows. -/

namespace Sys2Proof.Machine

/-- The 16 glyphs of `FONT_DATA`, each five rows, top row first (20_memory.md R67; the spec takes the bytes from
general knowledge, log 1). -/
def fontGlyphs : List (List Byte) :=
  [[0xF0, 0x90, 0x90, 0x90, 0xF0], [0x20, 0x60, 0x20, 0x20, 0x70],
   [0xF0, 0x10, 0xF0, 0x80, 0xF0], [0xF0, 0x10, 0xF0, 0x10, 0xF0]] ++
  [[0x90, 0x90, 0xF0, 0x10, 0x10], [0xF0, 0x80, 0xF0, 0x10, 0xF0],
   [0xF0, 0x80, 0xF0, 0x90, 0xF0], [0xF0, 0x10, 0x20, 0x40, 0x40]] ++
  [[0xF0, 0x90, 0xF0, 0x90, 0xF0], [0xF0, 0x90, 0xF0, 0x10, 0xF0],
   [0xF0, 0x90, 0xF0, 0x90, 0x90], [0xE0, 0x90, 0xE0, 0x90, 0xE0]] ++
  [[0xF0, 0x80, 0x80, 0x80, 0xF0], [0xE0, 0x90, 0x90, 0x90, 0xE0],
   [0xF0, 0x80, 0xF0, 0x80, 0xF0], [0xF0, 0x80, 0xF0, 0x80, 0x80]]

/-- `FONT_DATA`, the 80 bytes of the "contiguous table" (20_memory.md R67). -/
def fontBytes : List Byte := fontGlyphs.flatten

/-- The configuration of this hardware: `PROGRAM_START` = 0x200, `FONT_BASE` = 0x000, `DRW_VF_INVERTED` = true
(00_scope.md R10; log 1, log 2). -/
def hardware : Config where
  programStart := 0x200#16
  fontBase := 0x000#16
  fontData := fontBytes
  drwVfInverted := true

end Sys2Proof.Machine
end

