-- ==== Sys2Proof/Machine/Memory.lean ====
section
/-! DEFINITION. `MEM` as data: the bytes that differ from the reset contents, by rising address. An address that is
not listed reads as reset left it (10_state.md R51). Keys are below `MEM_SIZE` in the canonical form; State reaches
memory only through 12-bit addresses (Machine/Ops.lean), so no other address can be asked for (20_memory.md R61). -/

namespace Sys2Proof.Machine

/-- `MEM`: (address, byte) pairs in the canonical form `Memory.wf`. -/
abbrev Memory := List Host.Cell

/-- What an unlisted address reads as: the reset contents, "zero-filled" except `FONT_DATA` at `FONT_BASE`
(10_state.md R51). -/
def resetByte (a : Nat) : Byte :=
  if hardware.fontBase.toNat ≤ a then hardware.fontData.getD (a - hardware.fontBase.toNat) 0#8 else 0#8

namespace Memory

/-- The byte at an address. -/
def read : Memory → Nat → Byte
  | [], a => resetByte a
  | (b, v) :: rest, a => if a = b then v else read rest a

/-- Memory with nothing listed at `a`. -/
def without (m : Memory) (a : Nat) : Memory := List.filter (fun c => c.1 != a) m

/-- Put a cell at its place in the rising order. -/
def insertCell (c : Host.Cell) : Memory → Memory
  | [] => [c]
  | d :: rest => if c.1 < d.1 then c :: d :: rest else d :: insertCell c rest

/-- Store a byte. Storing what an unlisted address reads as removes the cell, so equal memories are equal lists. -/
def write (m : Memory) (a : Nat) (v : Byte) : Memory :=
  if v = resetByte a then without m a else insertCell (a, v) (without m a)

/-- The canonical form: addresses strictly rising, each below `MEM_SIZE`, no cell equal to what an unlisted address
reads as. -/
abbrev wf (m : Memory) : Prop :=
  List.Pairwise (fun c d => c.1 < d.1) m ∧ ∀ c ∈ m, c.1 < Config.memSize ∧ c.2 ≠ resetByte c.1

end Memory
end Sys2Proof.Machine
end

