-- ==== Sys2Proof/Machine/State.lean ====
section
/-! DEFINITION. The state of one CORE, the tuple of 10_state.md R20, as plain data; the reasons a step can stop; the
state after `Reset` (70_reset_and_hazards.md R280). -/

namespace Sys2Proof.Machine

/-- `FAULT.cause` (60_exceptions.md R246): codes 0 to 4, one constructor each, since "values 5 to 7 never occur". -/
inductive FaultCause where
  /-- 0, no fault has occurred. -/
  | none
  /-- 1, `CALL` with `SP` = 16 (R241). -/
  | stackOverflow
  /-- 2, `RET` with `SP` = 0 (R242). -/
  | stackUnderflow
  /-- 3, a data access past 0xFFF (R243). -/
  | memRange
  /-- 4, a fetch past 0xFFF (R245). -/
  | fetchRange
  deriving DecidableEq, Repr

/-- The fault record `FAULT` (10_state.md R42). -/
structure FaultRecord where
  cause : FaultCause
  pc : Word
  ir : Word
  addr : Word
  sp : Fin 17
  deriving DecidableEq, Repr

/-- `FAULT` with all fields 0 (10_state.md R43). -/
def FaultRecord.clear : FaultRecord := ⟨.none, 0#16, 0#16, 0#16, 0⟩

/-- `FB`: 32 rows of 64 pixels, row 0 at the top, column 0 at the left (10_state.md R46). -/
abbrev Framebuffer := Vector (Vector Bool 64) 32

/-- Every pixel 0 (10_state.md R47, 44_display.md R197). -/
def Framebuffer.blank : Framebuffer := Vector.replicate 32 (Vector.replicate 64 false)

/-- The state of one CORE (10_state.md R20), and the model's own counter `draws` of the bytes taken from `rnd_in`
(log 3). -/
structure State where
  /-- `V[0..15]` (R22). -/
  v : Vector Byte 16
  /-- `I` (R36). -/
  i : Word
  /-- `PC` (R31). -/
  pc : Word
  /-- `SP`, "range 0 to 16 inclusive" (R38). -/
  sp : Fin 17
  /-- `STACK[0..15]` (R44). -/
  stack : Vector Word 16
  /-- `DT` (R40). -/
  dt : Byte
  /-- `ST` (R40). -/
  st : Byte
  /-- `MEM[0..4095]` (R50). -/
  mem : Memory
  /-- `FB[0..31][0..63]` (R46). -/
  fb : Framebuffer
  /-- `KEYS[0..15]` (R48). -/
  keys : Vector Bool 16
  /-- `FAULT` (R42). -/
  fault : FaultRecord
  /-- The model's own field: how many bytes `RND` has drawn (42_shift_random.md R163, log 3). -/
  draws : Nat
  deriving DecidableEq, Repr

/-- Reasons for the outcome `fault`: there are none. Every fault of CORE has an entry that 60_exceptions.md R244
describes, so each is taken as a next state with `FAULT` written (log 4), and no other condition stops a cycle. Safe:
nothing of the hardware is cut off by it. -/
inductive Fault where
  deriving DecidableEq, Repr

/-- Reasons for the outcome `refused`. -/
inductive Refusal where
  /-- Raised by the arm of `exec` of an instruction that has no meaning yet, by its mnemonic. No arm is left that
  raises it. Safe: nothing is claimed of an instruction that is refused. -/
  | notModelled (mnemonic : String)
  deriving DecidableEq, Repr

/-- The state after `Reset` (70_reset_and_hazards.md R280). The values of `v`, `pc`, `mem` and `fb` are the source
document's; those of `i`, `sp`, `stack`, `dt`, `st`, `keys` and `fault` are the spec's decision D16 and D11 (log 10);
that of `draws` is the model's (log 3). -/
def State.reset : State where
  v := Vector.replicate 16 0#8
  i := 0#16
  pc := hardware.programStart
  sp := 0
  stack := Vector.replicate 16 0#16
  dt := 0#8
  st := 0#8
  mem := []
  fb := Framebuffer.blank
  keys := Vector.replicate 16 false
  fault := FaultRecord.clear
  draws := 0

end Sys2Proof.Machine
end

