-- ==== Sys2Proof/Machine/Ops.lean ====
section
/-! DEFINITION. The named operations over the state: registers, memory, the stack, the framebuffer, the keypad, the
timer tick, and taking a fault (60_exceptions.md R244). Every meaning is written over these. -/

namespace Sys2Proof.Machine

/-- How a meaning and a step end. -/
abbrev Result := Host.Outcome State Fault Refusal

namespace State

/-! ### Registers (10_state.md R22, R26, R31, R36, R40) -/

/-- Read `V[x]`. -/
def getV (s : State) (x : Reg) : Byte := s.v[x.val]

/-- `V[x] <- b`. No register is hard-wired (10_state.md R22). -/
def setV (s : State) (x : Reg) (b : Byte) : State := { s with v := s.v.set x.val b }

/-- A flag write, `V[15] <- f` as the byte 0 or 1 (10_state.md R26). -/
def setFlag (s : State) (f : Bool) : State := s.setV 15 (flagByte f)

/-- The result write and then the flag write of a flag-writing instruction: "When `x` = 15 the flag write therefore
overwrites the result" (10_state.md R29, the spec's decision D5, log 6). -/
def writeResult (s : State) (x : Reg) (result : Byte) (f : Bool) : State := (s.setV x result).setFlag f

/-- `pc <- t`. -/
def setPc (s : State) (t : Word) : State := { s with pc := t }

/-- `I <- a`, all 16 bits (10_state.md R36). -/
def setI (s : State) (a : Word) : State := { s with i := a }

/-- `DT <- b` (10_state.md R40). -/
def setDt (s : State) (b : Byte) : State := { s with dt := b }

/-- `ST <- b` (10_state.md R40). -/
def setSt (s : State) (b : Byte) : State := { s with st := b }

/-- Skip: `PC` advances "by an additional 2 when the condition holds" (40_control_flow.md R123). -/
def skipIf (s : State) (c : Bool) : State := if c then s.setPc (s.pc + 2#16) else s

/-! ### Memory (20_memory.md R61, R62) -/

/-- `MemRead(a, 1)`. -/
def readByte (s : State) (a : Addr) : Byte := s.mem.read a.toNat

/-- `MemWrite(a, 1, b)`. -/
def writeByte (s : State) (a : Addr) (b : Byte) : State := { s with mem := s.mem.write a.toNat b }

/-- The bytes at `base`, `base + 1`, ... in ascending order (20_memory.md R64). The caller has checked the range. -/
def readBytes (s : State) (base : Nat) (count : Nat) : List Byte :=
  (List.range count).map fun k => s.readByte (BitVec.ofNat 12 (base + k))

/-- Store bytes at `base`, `base + 1`, ... in ascending order (20_memory.md R64). The caller has checked the range. -/
def writeBytes (s : State) (base : Nat) : List Byte → State
  | [] => s
  | b :: rest => (s.writeByte (BitVec.ofNat 12 base) b).writeBytes (base + 1) rest

/-! ### The call stack (10_state.md R38, R44) -/

/-- `STACK[SP] <- t; SP <- SP + 1` (40_control_flow.md R121). The caller has checked `SP` ≠ 16. -/
def push (s : State) (t : Word) : State :=
  { s with stack := s.stack.setIfInBounds s.sp.val t, sp := Fin.ofNat 17 (s.sp.val + 1) }

/-- `STACK[SP − 1]`, the entry `RET` reads (40_control_flow.md R122). The caller has checked `SP` ≠ 0. -/
def topOfStack (s : State) : Word := s.stack[s.sp.val - 1]

/-- `SP <- SP − 1`; the entry is left in place (40_control_flow.md R122, log 18). -/
def pop (s : State) : State := { s with sp := Fin.ofNat 17 (s.sp.val - 1) }

/-! ### Keypad and random source (45_keypad.md R210, 42_shift_random.md R163) -/

/-- `is_pressed(k)` = `KEYS[k]` (45_keypad.md R210). -/
def isPressed (s : State) (k : Key) : Bool := s.keys[k.val]

/-- "the lowest-indexed pressed key" (45_keypad.md R213), none when no key is pressed. -/
def lowestPressed (s : State) : Option Key := (List.finRange 16).find? s.isPressed

/-- The byte that `Rand()` returns in this cycle: a free value (42_shift_random.md R163, log 3). -/
def randomByte (s : State) : Byte := Config.rndIn s.draws

/-- The draw is used up: the next one is another free value (log 3). -/
def countDraw (s : State) : State := { s with draws := s.draws + 1 }

/-! ### The tick (46_timer.md R223) -/

/-- "if nonzero, decrements by 1". -/
def countDown (b : Byte) : Byte := if b = 0#8 then 0#8 else b - 1#8

/-- The per-cycle timer tick (46_timer.md R223). -/
def tick (s : State) : State := { s with dt := countDown s.dt, st := countDown s.st }

/-! ### Faults (60_exceptions.md R244) -/

/-- "Faulted: the state in which `FAULT.cause` ≠ 0" (00_scope.md R18). -/
def faulted (s : State) : Bool := s.fault.cause != .none

/-- Taking a fault, the one shared operation (60_exceptions.md R244): `PC` = `PC0`, `FAULT` written with the cause,
`PC0`, the word, the address and the current `SP`; every other piece of state as it was before the cycle. Every check
that raises a fault comes before its instruction has any effect (20_memory.md R64, 40_control_flow.md R121, R122), so
what is undone is the fetch advance alone. -/
def takeFault (s : State) (pc0 : Word) (cause : FaultCause) (ir addr : Word) : State :=
  { s with pc := pc0, fault := ⟨cause, pc0, ir, addr, s.sp⟩ }

/-- `raise <Fault>(info)` in an execute step, where `PC` = `PC0` + 2 (00_scope.md R16): the fault is taken at the
instruction `i`, whose word is the `ir` recorded (60_exceptions.md R241 to R243). -/
def raiseAt (s : State) (cause : FaultCause) (i : Instr) (addr : Word) : State :=
  s.takeFault (s.pc - 2#16) cause (encode i) addr

end State

/-! ### The framebuffer (44_display.md R192 to R195) -/

namespace Framebuffer

/-- `FB[py][px]` (10_state.md R46). -/
def pixel (fb : Framebuffer) (px : Fin 64) (py : Fin 32) : Bool := fb[py.val][px.val]

/-- `FB[py][px] <- b`. -/
def setPixel (fb : Framebuffer) (px : Fin 64) (py : Fin 32) (b : Bool) : Framebuffer :=
  fb.set py.val (fb[py.val].set px.val b)

/-- "`px <- (x0 + c) mod 64`" (44_display.md R192, R194). -/
def column (x0 : Byte) (c : Nat) : Fin 64 := Fin.ofNat 64 (x0.toNat + c)

/-- "`py <- (y0 + r) mod 32`" (44_display.md R192, R194). -/
def line (y0 : Byte) (r : Nat) : Fin 32 := Fin.ofNat 32 (y0.toNat + r)

/-- Bit `c` of a sprite row, the most significant first: `rows[r][7 - c]` (44_display.md R192, R195, log 11). -/
def spriteBit (row : Byte) (c : Nat) : Bool := row.getLsbD (7 - c)

/-- One sprite bit: where it is 1 the pixel is toggled, and a pixel that was lit makes a collision
(44_display.md R192). -/
def drawBit (x0 y0 : Byte) (r : Nat) (row : Byte) (acc : Framebuffer × Bool) (c : Nat) : Framebuffer × Bool :=
  if spriteBit row c then
    let old := acc.1.pixel (column x0 c) (line y0 r)
    (acc.1.setPixel (column x0 c) (line y0 r) (!old), acc.2 || old)
  else acc

/-- One sprite row: its eight bits from the left (44_display.md R192). -/
def drawRow (x0 y0 : Byte) (r : Nat) (row : Byte) (acc : Framebuffer × Bool) : Framebuffer × Bool :=
  (List.range 8).foldl (drawBit x0 y0 r row) acc

/-- The sprite rows from row `r` of the sprite on. -/
def drawRows (x0 y0 : Byte) : Nat → List Byte → Framebuffer × Bool → Framebuffer × Bool
  | _, [], acc => acc
  | r, row :: rest, acc => drawRows x0 y0 (r + 1) rest (drawRow x0 y0 r row acc)

/-- `Draw(x0, y0, rows)` (44_display.md R192): the framebuffer after it, and the collision it returns. -/
def draw (fb : Framebuffer) (x0 y0 : Byte) (rows : List Byte) : Framebuffer × Bool :=
  drawRows x0 y0 0 rows (fb, false)

end Framebuffer
end Sys2Proof.Machine
end

