-- ==== Sys2Proof/Machine/Operands.lean ====
section
/-! DEFINITION. Every operand form: jump targets, the nibble operands, the font pointer, and the one data addressing
mode `I[11:0] + i` with its range check (43_index_memory.md R176, 20_memory.md R64). -/

namespace Sys2Proof.Machine

/-- `zext_16(addr)` (30_encoding.md R92). -/
def absoluteTarget (addr : Addr) : Word := addr.setWidth 16

/-- `zext_16(addr) + zext_16(V[0])`, "formed in 16 bits and ... not masked to 12 bits" (40_control_flow.md R127). -/
def indexedTarget (addr : Addr) (v0 : Byte) : Word := addr.setWidth 16 + v0.setWidth 16

/-- `b[3:0]` (45_keypad.md R214, 43_index_memory.md R172). -/
def lowNibble (b : Byte) : Key := (b.extractLsb' 0 4).toFin

/-- `FONT_BASE + 5 × V[x][3:0]` (43_index_memory.md R172). -/
def glyphAddress (fontBase : Word) (b : Byte) : Word :=
  fontBase + BitVec.ofNat 16 (Config.glyphHeight * (lowNibble b).val)

namespace State

/-- `base` = `I[11:0]` (20_memory.md R64). -/
def indexBase (s : State) : Nat := (s.i.extractLsb' 0 12).toNat

/-- `base + count − 1`, the highest effective address (20_memory.md R64), for `count` ≥ 1. -/
def lastAddress (s : State) (count : Nat) : Nat := s.indexBase + count - 1

/-- The check of 20_memory.md R64: `base + count − 1` ≤ 0xFFF. "When `count` = 0 ... there is no access and no
check." -/
def rangeOk (s : State) (count : Nat) : Bool := count == 0 || s.lastAddress count ≤ 0xFFF

end State

/-- An instruction that accesses `count` bytes at `I[11:0]`: "Before the instruction reads, writes or changes anything,
it checks" the range and raises `MemRange`, else it has its effect (20_memory.md R64, 60_exceptions.md R243). -/
def withIndexRange (s : State) (i : Instr) (count : Nat) (effect : State) : Result :=
  if s.rangeOk count then .next effect
  else .next (s.raiseAt .memRange i (BitVec.ofNat 16 (s.lastAddress count)))

end Sys2Proof.Machine
end

