-- ==== Sys2Proof/Machine/Cycle.lean ====
section
/-! DEFINITION. The parts of one cycle around the execute step (70_reset_and_hazards.md R285, R286): the faulted
check, the fetch with its range check, the no-op of an unknown word, the end of the cycle; and how a word is placed for
the next fetch. -/

namespace Sys2Proof.Machine

namespace State

/-- A `Cycle` of the faulted machine "changes no state, executes nothing, performs no tick" (60_exceptions.md R248,
log 4). -/
def stoppedCycle (s : State) : State := s

/-- The fetch of 20_memory.md R63: the big-endian word at the unmasked `PC`, none when `PC` ≥ 0xFFF. -/
def fetchWord (s : State) : Option Word :=
  if s.pc.toNat ≤ 0xFFE then
    some (wordOfBytes (s.readByte (BitVec.ofNat 12 s.pc.toNat)) (s.readByte (BitVec.ofNat 12 (s.pc.toNat + 1))))
  else none

/-- `FetchRange` (60_exceptions.md R245): `ir` = 0, `addr` = the lowest out-of-range byte address. -/
def raiseFetchRange (s : State) : State :=
  s.takeFault s.pc .fetchRange 0#16 (if s.pc = 0xFFF#16 then s.pc + 1#16 else s.pc)

/-- The fetch advance, before decode and execute (70_reset_and_hazards.md R286). -/
def advancePc (s : State) : State := s.setPc (s.pc + 2#16)

/-- The execute step of an unknown word "changes no state" (30_encoding.md R99). -/
def skipUnknown (s : State) : State := s

/-- The end of a cycle: the tick, unless the cycle raised a fault (46_timer.md R223, 60_exceptions.md R244). -/
def endCycle (s : State) : State := if s.faulted then s else s.tick

/-- The state with the word `w` where the next cycle fetches. The fetch needs a machine that is not faulted and a `PC`
up to 0xFFE; in the other states the fault is cleared and `PC` is at `PROGRAM_START` (log 14). -/
def placeWord (s : State) (hi lo : Byte) : State :=
  let pc := if s.pc.toNat ≤ 0xFFE then s.pc else hardware.programStart
  State.writeBytes { s with pc := pc, fault := if s.faulted then FaultRecord.clear else s.fault } pc.toNat [hi, lo]

end State

/-- The outcome of the execute step carried to the end of the cycle. -/
def finishCycle : Result → Result
  | .next s => .next s.endCycle
  | .fault r => .fault r
  | .refused r => .refused r

end Sys2Proof.Machine
end

