-- ==== Sys2Proof/Machine/ControlFlow.lean ====
section
/-! DEFINITION. The control-flow instructions of 40_control_flow.md. Each meaning is the execute step alone: in `s`
the fetch has already set `PC` to the address of the instruction plus 2 (00_scope.md R16). -/

namespace Sys2Proof.Machine

/-- `SYS addr` does nothing; `addr` is ignored (40_control_flow.md R128). -/
def execSys (_addr : Addr) (s : State) : Result := .next s

/-- `JP addr` (40_control_flow.md R120). -/
def execJp (addr : Addr) (s : State) : Result := .next (s.setPc (absoluteTarget addr))

/-- `CALL addr` (40_control_flow.md R121): pushes the already-advanced `PC`, or raises `StackOverflow`. -/
def execCall (addr : Addr) (s : State) : Result :=
  if s.sp.val = 16 then .next (s.raiseAt .stackOverflow (.call addr) 0#16)
  else .next ((s.push s.pc).setPc (absoluteTarget addr))

/-- `RET` (40_control_flow.md R122): pops into `PC`, or raises `StackUnderflow`. -/
def execRet (s : State) : Result :=
  if s.sp.val = 0 then .next (s.raiseAt .stackUnderflow .ret 0#16)
  else .next (s.pop.setPc s.topOfStack)

/-- `SE Vx, kk` (40_control_flow.md R123). -/
def execSeImm (x : Reg) (kk : Byte) (s : State) : Result := .next (s.skipIf (s.getV x == kk))

/-- `SNE Vx, kk` (40_control_flow.md R124). -/
def execSneImm (x : Reg) (kk : Byte) (s : State) : Result := .next (s.skipIf (s.getV x != kk))

/-- `SE Vx, Vy` (40_control_flow.md R125). -/
def execSeReg (x y : Reg) (s : State) : Result := .next (s.skipIf (s.getV x == s.getV y))

/-- `SNE Vx, Vy` (40_control_flow.md R126). -/
def execSneReg (x y : Reg) (s : State) : Result := .next (s.skipIf (s.getV x != s.getV y))

/-- `JP V0, addr` (40_control_flow.md R127): the register is always `V0`. -/
def execJpV0 (addr : Addr) (s : State) : Result := .next (s.setPc (indexedTarget addr (s.getV 0)))

end Sys2Proof.Machine
end

