-- ==== Sys2Proof/Machine/Display.lean ====
section
/-! DEFINITION. The display instructions of 44_display.md. -/

namespace Sys2Proof.Machine

/-- `CLS` (44_display.md R190). -/
def execCls (s : State) : Result := .next { s with fb := Framebuffer.blank }

/-- The blit of `DRW`: `n` rows at `I[11:0]`, the origin (`V[x]`, `V[y]`) (44_display.md R191, R192). -/
def State.blit (s : State) (x y : Reg) (n : Nat) : Framebuffer × Bool :=
  s.fb.draw (s.getV x) (s.getV y) (s.readBytes s.indexBase n)

/-- `DRW Vx, Vy, n` (44_display.md R191): the touched pixels, then `VF` (log 2). -/
def execDrw (x y : Reg) (n : Nibble) (s : State) : Result :=
  withIndexRange s (.drw x y n) n.toNat
    (State.setFlag { s with fb := (s.blit x y n.toNat).1 } (drawFlag hardware.drwVfInverted (s.blit x y n.toNat).2))

end Sys2Proof.Machine
end

