-- ==== Sys2Proof/Machine/IndexMemory.lean ====
section
/-! DEFINITION. The index-register and memory block instructions of 43_index_memory.md. None of them writes `VF` as a
flag, and the three that access memory leave `I` unchanged (R176, log 7). -/

namespace Sys2Proof.Machine

/-- `LD I, addr` (43_index_memory.md R170). -/
def execLdI (addr : Addr) (s : State) : Result := .next (s.setI (absoluteTarget addr))

/-- `ADD I, Vx` (43_index_memory.md R171): modulo 65536, no flag (log 7). -/
def execAddI (x : Reg) (s : State) : Result := .next (s.setI (s.i + (s.getV x).setWidth 16))

/-- `LD F, Vx` (43_index_memory.md R172). -/
def execLdFont (x : Reg) (s : State) : Result := .next (s.setI (glyphAddress hardware.fontBase (s.getV x)))

/-- `LD B, Vx` (43_index_memory.md R173): three digits, the hundreds at the lowest address. -/
def execLdBcd (x : Reg) (s : State) : Result :=
  withIndexRange s (.ldBcd x) 3
    (s.writeBytes s.indexBase [hundredsDigit (s.getV x), tensDigit (s.getV x), unitsDigit (s.getV x)])

/-- `LD [I], Vx` (43_index_memory.md R174): `V[0]` to `V[x]`, `V[i]` at offset `i`. -/
def execStoreRegs (x : Reg) (s : State) : Result :=
  withIndexRange s (.storeRegs x) (x.val + 1) (s.writeBytes s.indexBase (s.v.toList.take (x.val + 1)))

/-- `LD Vx, [I]` (43_index_memory.md R175): `V[i]` is the byte at offset `i` for `i` in 0 to `x`, and registers above
`V[x]` are untouched. -/
def execLoadRegs (x : Reg) (s : State) : Result :=
  withIndexRange s (.loadRegs x) (x.val + 1)
    { s with v := Vector.ofFn fun k : Fin 16 =>
        if k.val ≤ x.val then s.readByte (BitVec.ofNat 12 (s.indexBase + k.val)) else s.getV k }

end Sys2Proof.Machine
end

