-- ==== Sys2Proof/Machine/Keypad.lean ====
section
/-! DEFINITION. The keypad instructions of 45_keypad.md. Keys are levels (R210); the key tested is the low nibble of
the register (R214, log 8). -/

namespace Sys2Proof.Machine

/-- `SKP Vx` (45_keypad.md R211). -/
def execSkp (x : Reg) (s : State) : Result := .next (s.skipIf (s.isPressed (lowNibble (s.getV x))))

/-- `SKNP Vx` (45_keypad.md R212). -/
def execSknp (x : Reg) (s : State) : Result := .next (s.skipIf (!s.isPressed (lowNibble (s.getV x))))

/-- `LD Vx, K` (45_keypad.md R213): with no key pressed `PC` goes back to the instruction, else the lowest pressed key
goes to `V[x]`. -/
def execLdVxKey (x : Reg) (s : State) : Result :=
  match s.lowestPressed with
  | none => .next (s.setPc (s.pc - 2#16))
  | some k => .next (s.setV x (BitVec.ofNat 8 k.val))

end Sys2Proof.Machine
end

