-- ==== Sys2Proof/Machine/LoadArith.lean ====
section
/-! DEFINITION. The register load, arithmetic and logic instructions of 41_load_arith.md. Operands are read from the
state at the start of the execute step; the result write comes before the flag write (10_state.md R29). -/

namespace Sys2Proof.Machine

/-- `LD Vx, kk` (41_load_arith.md R140). -/
def execLdImm (x : Reg) (kk : Byte) (s : State) : Result := .next (s.setV x kk)

/-- `ADD Vx, kk` (41_load_arith.md R141), which writes `VF`. -/
def execAddImm (x : Reg) (kk : Byte) (s : State) : Result :=
  .next (s.writeResult x (sumByte (s.getV x) kk) (carryFlag (s.getV x) kk))

/-- `LD Vx, Vy` (41_load_arith.md R142). -/
def execLdReg (x y : Reg) (s : State) : Result := .next (s.setV x (s.getV y))

/-- `OR Vx, Vy` (41_load_arith.md R143); `VF` is left unchanged (log 7). -/
def execOrReg (x y : Reg) (s : State) : Result := .next (s.setV x (s.getV x ||| s.getV y))

/-- `AND Vx, Vy` (41_load_arith.md R144); `VF` is left unchanged (log 7). -/
def execAndReg (x y : Reg) (s : State) : Result := .next (s.setV x (s.getV x &&& s.getV y))

/-- `XOR Vx, Vy` (41_load_arith.md R145); `VF` is left unchanged (log 7). -/
def execXorReg (x y : Reg) (s : State) : Result := .next (s.setV x (s.getV x ^^^ s.getV y))

/-- `ADD Vx, Vy` (41_load_arith.md R146). -/
def execAddReg (x y : Reg) (s : State) : Result :=
  .next (s.writeResult x (sumByte (s.getV x) (s.getV y)) (carryFlag (s.getV x) (s.getV y)))

/-- `SUB Vx, Vy` (41_load_arith.md R147): `V[x]` minus `V[y]`. -/
def execSubReg (x y : Reg) (s : State) : Result :=
  .next (s.writeResult x (differenceByte (s.getV x) (s.getV y)) (noBorrowFlag (s.getV x) (s.getV y)))

/-- `SUBN Vx, Vy` (41_load_arith.md R148): `V[y]` minus `V[x]`, into `V[x]`. -/
def execSubnReg (x y : Reg) (s : State) : Result :=
  .next (s.writeResult x (differenceByte (s.getV y) (s.getV x)) (noBorrowFlag (s.getV y) (s.getV x)))

end Sys2Proof.Machine
end

