-- ==== Sys2Proof/Machine/ShiftRandom.lean ====
section
/-! DEFINITION. The shift and random instructions of 42_shift_random.md. -/

namespace Sys2Proof.Machine

/-- `SHR Vx` (42_shift_random.md R160); the `y` field is ignored (log 12). -/
def execShr (x _y : Reg) (s : State) : Result :=
  .next (s.writeResult x (shiftRightByte (s.getV x)) (shiftRightFlag (s.getV x)))

/-- `SHL Vx` (42_shift_random.md R161); the `y` field is ignored (log 12). -/
def execShl (x _y : Reg) (s : State) : Result :=
  .next (s.writeResult x (shiftLeftByte (s.getV x)) (shiftLeftFlag (s.getV x)))

/-- `RND Vx, kk` (42_shift_random.md R162): a draw, a free value (R163, log 3), under the mask `kk`. -/
def execRnd (x : Reg) (kk : Byte) (s : State) : Result := .next (s.countDraw.setV x (s.randomByte &&& kk))

end Sys2Proof.Machine
end

