-- ==== Sys2Proof/Machine/Timer.lean ====
section
/-! DEFINITION. The timer instructions of 46_timer.md: the values before the tick of their own cycle. -/

namespace Sys2Proof.Machine

/-- `LD Vx, DT` (46_timer.md R220). -/
def execLdVxDt (x : Reg) (s : State) : Result := .next (s.setV x s.dt)

/-- `LD DT, Vx` (46_timer.md R221). -/
def execLdDtVx (x : Reg) (s : State) : Result := .next (s.setDt (s.getV x))

/-- `LD ST, Vx` (46_timer.md R222). -/
def execLdStVx (x : Reg) (s : State) : Result := .next (s.setSt (s.getV x))

end Sys2Proof.Machine
end

