-- ==== Sys2Proof/Machine/Step.lean ====
section
/-! DEFINITION. `Cycle` (70_reset_and_hazards.md R285): the faulted check, the fetch, the execute step, the tick. -/

namespace Sys2Proof.Machine

/-- One `Cycle`. -/
def step (s : State) : Host.Outcome State Fault Refusal :=
  if s.faulted then .next s.stoppedCycle
  else
    match s.fetchWord with
    | none => .next s.raiseFetchRange
    | some w =>
      match decode w with
      | .ok i => finishCycle (exec i s.advancePc)
      | .error _ => finishCycle (.next s.advancePc.skipUnknown)

/-- The opcode table's word `w` stored where `step` fetches next (log 14). -/
def State.withFetchWord (s : State) (nbits w : Nat) : State :=
  s.placeWord (tableBytes nbits w).1 (tableBytes nbits w).2

end Sys2Proof.Machine
end

