-- ==== Sys2Proof/Machine/Command.lean ====
section
/-! DEFINITION. The host interface of 10_state.md R54: the four commands, each atomic and only between cycles
(70_reset_and_hazards.md R295), and the three outputs, functions of the state. The package's `step` is the command
`Cycle`; what the host does between two cycles is a command of this file (log 13). -/

namespace Sys2Proof.Machine

/-! ### Outputs -/

/-- The 3-bit code of a cause (60_exceptions.md R246). -/
def FaultCause.code : FaultCause → BitVec 3
  | .none => 0#3
  | .stackOverflow => 1#3
  | .stackUnderflow => 2#3
  | .memRange => 3#3
  | .fetchRange => 4#3

namespace State

/-- `fb_out`: bit `y × 64 + x` is `FB[y][x]`, row-major (44_display.md R198). -/
def fbOut (s : State) : Vector Bool 2048 :=
  Vector.ofFn fun k => s.fb.pixel (Fin.ofNat 64 k.val) (Fin.ofNat 32 (k.val / 64))

/-- `tone` = (`ST` != 0), a level (46_timer.md R224). -/
def tone (s : State) : Bool := s.st != 0#8

/-- `fault_out`, the fault record (10_state.md R54). -/
def faultOut (s : State) : FaultRecord := s.fault

/-! ### Commands that are no cycle -/

/-- `Reset`: "puts every piece of state at its reset value, all at once, whatever the state was before"
(70_reset_and_hazards.md R280). The model's own counter of draws goes on, so that the draws after a reset are fresh
(log 3). -/
def resetAgain (s : State) : State := { State.reset with draws := s.draws }

/-- `KeySet(k, b)` "sets `KEYS[k] <- b` and changes nothing else" (70_reset_and_hazards.md R296). -/
def keySet (s : State) (k : Key) (b : Bool) : State := { s with keys := s.keys.set k.val b }

/-- A ROM that fits: `len` ≤ `MAX_ROM` (70_reset_and_hazards.md R283). -/
def romFits (bytes : List Byte) : Bool := bytes.length ≤ hardware.maxRom

/-- `Load(bytes)` of a ROM that fits: `MEM[PROGRAM_START + i] <- bytes[i]`, nothing else (70_reset_and_hazards.md
R283). -/
def loadRom (s : State) (bytes : List Byte) : State := s.writeBytes hardware.programStart.toNat bytes

end State

/-- A command of the host (10_state.md R54). -/
inductive Command where
  | reset
  | load (bytes : List Byte)
  | keySet (k : Key) (b : Bool)
  | cycle
  deriving DecidableEq, Repr

/-- What a command reports to the host. -/
inductive Reply where
  /-- The command was carried out; a `Cycle` returned no fault. -/
  | done
  /-- `Load` of an oversized ROM, rejected (70_reset_and_hazards.md R283). -/
  | loadError
  /-- `Cycle` returned this fault (60_exceptions.md R244, R248). -/
  | fault (record : FaultRecord)
  deriving DecidableEq, Repr

/-- What a `Cycle` that ended in `s` returns: "the `Cycle` command returns the fault to the host"
(60_exceptions.md R244). -/
def State.cycleReply (s : State) : Reply := if s.faulted then .fault s.faultOut else .done

/-- One command of the host: the state after it and the report. -/
def perform (c : Command) (s : State) : Host.Outcome (State × Reply) Fault Refusal :=
  match c with
  | .reset => .next (s.resetAgain, .done)
  | .load bytes => if State.romFits bytes then .next (s.loadRom bytes, .done) else .next (s, .loadError)
  | .keySet k b => .next (s.keySet k b, .done)
  | .cycle =>
    match step s with
    | .next t => .next (t, t.cycleReply)
    | .fault r => .fault r
    | .refused r => .refused r

/-- A sequence of commands, in the one total order in which the host issues them (70_reset_and_hazards.md R299). -/
def performAll : List Command → State → Host.Outcome State Fault Refusal
  | [], s => .next s
  | c :: rest, s =>
    match perform c s with
    | .next (t, _) => performAll rest t
    | .fault r => .fault r
    | .refused r => .refused r

end Sys2Proof.Machine
end

