-- ==== Sys2Proof/Safety.lean ====
section
/-! DEFINITION. The terms in which claims about the machine are stated: the parts of the state and what a step leaves
unchanged, the invariant of the reachable states, a run without a fault, and the parked state of
70_reset_and_hazards.md R298. -/

namespace Sys2Proof.Machine

/-! ### Parts of the state -/

/-- The smallest pieces of state of 10_state.md R20 (and the model's own counter of draws): a register, a stack entry,
a byte of memory, a pixel, a key. -/
inductive Part where
  | v (x : Reg)
  | i
  | pc
  | sp
  | stack (k : Fin 16)
  | dt
  | st
  | mem (a : Addr)
  | pixel (px : Fin 64) (py : Fin 32)
  | key (k : Key)
  | fault
  | draws
  deriving DecidableEq, Repr

/-- The part holds the same value in both states. -/
def Part.same : Part → State → State → Prop
  | .v x, s, t => t.getV x = s.getV x
  | .i, s, t => t.i = s.i
  | .pc, s, t => t.pc = s.pc
  | .sp, s, t => t.sp = s.sp
  | .stack k, s, t => t.stack[k.val] = s.stack[k.val]
  | .dt, s, t => t.dt = s.dt
  | .st, s, t => t.st = s.st
  | .mem a, s, t => t.readByte a = s.readByte a
  | .pixel px py, s, t => t.fb.pixel px py = s.fb.pixel px py
  | .key k, s, t => t.isPressed k = s.isPressed k
  | .fault, s, t => t.fault = s.fault
  | .draws, s, t => t.draws = s.draws

/-- From `s` to `t` every part of the state outside `parts` is unchanged. -/
def ChangesOnly (parts : Part → Prop) (s t : State) : Prop := ∀ p, ¬ parts p → p.same s t

/-- The bytes an instruction accesses at `I[11:0]`: `count` consecutive ones (20_memory.md R64). -/
def State.inIndexRange (s : State) (count : Nat) (a : Addr) : Prop :=
  s.indexBase ≤ a.toNat ∧ a.toNat < s.indexBase + count

/-- How many bytes an instruction accesses through `I`, for the four that do (20_memory.md R64). -/
def indexCount : Instr → Option Nat
  | .ldBcd _ => some 3
  | .storeRegs x => some (x.val + 1)
  | .loadRegs x => some (x.val + 1)
  | .drw _ _ n => some n.toNat
  | _ => none

/-- The registers an instruction may write, as "Writes:" of its own rule lists them: the destination it names, `VF` for the
seven flag writers (10_state.md R27), `V0` to `Vx` for the block load (43_index_memory.md R175). -/
def writtenRegisters : Instr → List Reg
  | .cls => []
  | .ret => []
  | .sys _ => []
  | .jp _ => []
  | .call _ => []
  | .seImm _ _ => []
  | .sneImm _ _ => []
  | .seReg _ _ => []
  | .ldImm x _ => [x]
  | .addImm x _ => [x, 15]
  | .ldReg x _ => [x]
  | .orReg x _ => [x]
  | .andReg x _ => [x]
  | .xorReg x _ => [x]
  | .addReg x _ => [x, 15]
  | .subReg x _ => [x, 15]
  | .shr x _ => [x, 15]
  | .subnReg x _ => [x, 15]
  | .shl x _ => [x, 15]
  | .sneReg _ _ => []
  | .ldI _ => []
  | .jpV0 _ => []
  | .rnd x _ => [x]
  | .drw _ _ _ => [15]
  | .skp _ => []
  | .sknp _ => []
  | .ldVxDt x => [x]
  | .ldVxKey x => [x]
  | .ldDtVx _ => []
  | .ldStVx _ => []
  | .addI _ => []
  | .ldFont _ => []
  | .ldBcd _ => []
  | .storeRegs _ => []
  | .loadRegs x => (List.finRange 16).filter (· ≤ x)

/-- The instruction the next cycle fetches: none when the fetch is out of range or the word is unknown. -/
def State.fetchedInstr (s : State) : Option Instr := s.fetchWord.bind fun w => (decode w).toOption

/-- Some bit of the sprite that is 1 lands on this pixel: row `r` goes to display row `(y0 + r) mod 32`, its bit `c`
from the left to display column `(x0 + c) mod 64` (44_display.md R192). -/
def spriteCovers (x0 y0 : Byte) (rows : List Byte) (px : Fin 64) (py : Fin 32) : Bool :=
  (List.range rows.length).any fun r => (List.range 8).any fun c =>
    (rows.getD r 0#8).getLsbD (7 - c) && (x0.toNat + c) % 64 == px.val && (y0.toNat + r) % 32 == py.val

/-- Some bit of the sprite is 1. -/
def spriteHasBit (rows : List Byte) : Bool := rows.any (· != 0#8)

/-- The fault of the cycle that starts in a state that is not faulted, as the conditions of 60_exceptions.md R246 give
it; the word is checked only after the fetch (R249). -/
def State.dueFault (s : State) : FaultCause :=
  if 0xFFF ≤ s.pc.toNat then .fetchRange
  else
    match s.fetchedInstr with
    | some (.call _) => if s.sp = 16 then .stackOverflow else .none
    | some .ret => if s.sp = 0 then .stackUnderflow else .none
    | some i =>
      match indexCount i with
      | some count => if 1 ≤ count ∧ 0xFFF < s.indexBase + count - 1 then .memRange else .none
      | none => .none
    | none => .none

/-! ### The invariant -/

/-- The fault record is one of the rows of the table of 60_exceptions.md R246, about the state it stands in. -/
def State.faultRecordLegal (s : State) : Prop :=
  match s.fault.cause with
  | .none => s.fault = FaultRecord.clear
  | .stackOverflow =>
    s.fault.pc = s.pc ∧ s.fault.sp = s.sp ∧ s.sp = 16 ∧ s.fault.addr = 0#16 ∧ ∃ a, decode s.fault.ir = .ok (.call a)
  | .stackUnderflow =>
    s.fault.pc = s.pc ∧ s.fault.sp = s.sp ∧ s.sp = 0 ∧ s.fault.addr = 0#16 ∧ s.fault.ir = 0x00EE#16
  | .memRange =>
    s.fault.pc = s.pc ∧ s.fault.sp = s.sp ∧
      ∃ i count, decode s.fault.ir = .ok i ∧ indexCount i = some count ∧ 1 ≤ count ∧
        s.fault.addr.toNat = s.lastAddress count ∧ 0x1000 ≤ s.fault.addr.toNat ∧ s.fault.addr.toNat ≤ 0x100E
  | .fetchRange =>
    s.fault.pc = s.pc ∧ s.fault.sp = s.sp ∧ s.fault.ir = 0#16 ∧ 0xFFF ≤ s.pc.toNat ∧
      s.fault.addr.toNat = max 0x1000 s.pc.toNat

/-- What every reachable state satisfies: memory in its canonical form, `PC` at most 0x10FE (10_state.md R34), stack
entries at most 0x1000 (40_control_flow.md R121), the fault record legal. -/
def State.Inv (s : State) : Prop :=
  s.mem.wf ∧ s.pc.toNat ≤ 0x10FE ∧ (∀ k : Fin 16, s.stack[k.val].toNat ≤ 0x1000) ∧ s.faultRecordLegal

/-! ### Runs -/

/-- `k` cycles without a fault. The faulted state is "terminal and never final" (60_exceptions.md R244), so a run that
enters it is not safe, although every step of it answers a next state. -/
def SafeRun (k : Nat) (s : State) : Prop := ∃ t, Host.Core.run Sys2Proof.core k s = .next t ∧ t.faulted = false

/-- `parked` (70_reset_and_hazards.md R298): no fault, a `JP` to itself at `PC`, both timers 0. -/
def State.parked (s : State) : Prop :=
  s.faulted = false ∧ s.dt = 0#8 ∧ s.st = 0#8 ∧ s.fetchWord = some (0x1000#16 ||| s.pc)

end Sys2Proof.Machine
end

