-- ==== Sys2Proof/Certificates/Slice0/Obligations.lean ====
section
/-! DEFINITION. The statements for the provers. A statement about `exec` is about the execute step: in `s` the fetch has
already set `PC` to the address of the instruction plus 2 (00_scope.md R16). `ChangesOnly parts s t` is the frame: every
part of the state outside `parts` holds in `t` what it held in `s`. -/

open Sys2Proof Sys2Proof.Machine

/-! ### Reset -/

/-- R25, R30, R47, R51: after reset every register is 0, `VF` among them, every pixel is 0, and every byte of memory is
0 but for the 80 bytes of `FONT_DATA` at `FONT_BASE`. -/
def Obligations.ResetClearsRegistersDisplayAndMemory : Prop :=
  (∀ x : Reg, State.reset.getV x = 0#8) ∧ State.reset.getV 15 = 0#8 ∧
  (∀ px py, State.reset.fb.pixel px py = false) ∧
  hardware.fontData.length = 80 ∧
  ∀ a : Addr, State.reset.readByte a =
    if hardware.fontBase.toNat ≤ a.toNat ∧ a.toNat < hardware.fontBase.toNat + 80
    then hardware.fontData.getD (a.toNat - hardware.fontBase.toNat) 0#8 else 0#8

/-- The reset values that are the spec's own decisions (D1, D16, D11; log 1, log 10 and log 4): `PC` = 0x200; `I`, `SP`,
the stack and both timers at 0; every key released; the fault record with all fields 0 (10_state.md R43); the tone off,
since `ST` is 0. -/
def Obligations.ResetTakesTheDecidedValues : Prop :=
  State.reset.pc = 0x200#16 ∧ State.reset.i = 0#16 ∧ State.reset.sp = 0 ∧
  (∀ k : Fin 16, State.reset.stack[k.val] = 0#16) ∧ State.reset.dt = 0#8 ∧ State.reset.st = 0#8 ∧
  (∀ k, State.reset.isPressed k = false) ∧ State.reset.fault = FaultRecord.clear ∧ State.reset.tone = false

/-! ### Encoding -/

/-- Decoding the word of a well-formed instruction gives it back, with every operand at every value (the opcode numbers
are the spec's decision D14, log 5). -/
def Obligations.DecodeOfEncodeIsTheInstruction : Prop :=
  ∀ i : Instr, i.wellFormed = true → decode (encode i) = .ok i

/-- A word that decodes is the word of the instruction it decodes to, which is well-formed: each word has one meaning
(D14, log 5). -/
def Obligations.EncodeOfDecodeIsTheWord : Prop :=
  ∀ (w : Word) (i : Instr), decode w = .ok i → i.wellFormed = true ∧ encode i = w

/-- The decoder takes the first row of the opcode map with `(w & mask) == match`, and no two rows overlap but `CLS` and
`RET` with `SYS` (the map is D14, log 5). -/
def Obligations.DecoderTakesTheFirstMatchingRow : Prop :=
  (∀ w : Word, firstRow w = match decode w with | .ok i => some i.row | .error _ => none) ∧
  ∀ (w : Word) (r q : OpcodeRow), r ∈ opcodeRows → q ∈ opcodeRows → r.row < q.row →
    r.selects w = true → q.selects w = true → (r.row = 1 ∨ r.row = 2) ∧ q.row = 3

/-- The words that decode to no instruction are exactly the five classes of 30_encoding.md R100 (a rule the spec marks
as derived, resting on D12 and D14, log 5). -/
def Obligations.UnknownWordsAreTheFiveClasses : Prop :=
  ∀ w : Word, (∃ r, decode w = .error r) ↔
    (fieldN3 w = 0x5#4 ∧ fieldN w ≠ 0#4) ∨
    (fieldN3 w = 0x8#4 ∧ fieldN w ∈ [0x8#4, 0x9#4, 0xA#4, 0xB#4, 0xC#4, 0xD#4, 0xF#4]) ∨
    (fieldN3 w = 0x9#4 ∧ fieldN w ≠ 0#4) ∨
    (fieldN3 w = 0xE#4 ∧ fieldKk w ∉ [0x9E#8, 0xA1#8]) ∨
    (fieldN3 w = 0xF#4 ∧ fieldKk w ∉ [0x07#8, 0x0A#8, 0x15#8, 0x18#8, 0x1E#8, 0x29#8, 0x33#8, 0x55#8, 0x65#8])

/-- A sanity statement: words written out from the encodings of 30_encoding.md R94, one of each family, decode to the
instructions they stand for (D14, log 5). -/
def Obligations.WrittenOutWordsDecode : Prop :=
  decode 0b0000000011100000#16 = .ok .cls ∧
  decode 0b0001001000110100#16 = .ok (.jp 0x234#12) ∧
  decode 0b0110000110101010#16 = .ok (.ldImm 1 0xAA#8) ∧
  decode 0b1000000100101110#16 = .ok (.shl 1 2) ∧
  decode 0b1101000100100101#16 = .ok (.drw 1 2 5#4) ∧
  decode 0b1110000110100001#16 = .ok (.sknp 1) ∧
  decode 0b1111000100000111#16 = .ok (.ldVxDt 1) ∧
  decode 0b1111111001100101#16 = .ok (.loadRegs 14)

/-! ### The cycle -/

/-- The procedure of 70_reset_and_hazards.md R285 and R286: the faulted check, the fetch with its range check and its
advance of `PC` by 2 before decode and execute, the execute step of the decoded instruction, the tick; a word with no row
does nothing but the advance and the tick (30_encoding.md R99). That a cycle of the faulted machine changes nothing is the
spec's decision D22 and that a fault changes only `FAULT` and skips the tick is D11 (log 4); that `PC` at or above 0xFFF
raises `FetchRange` is D10 (log 9). -/
def Obligations.CycleFollowsTheProcedure : Prop :=
  ∀ s : State,
    (s.faulted = true → step s = .next s) ∧
    (s.faulted = false → 0xFFF ≤ s.pc.toNat →
      ∃ t, step s = .next t ∧ t.fault.cause = .fetchRange ∧ ChangesOnly (· = .fault) s t) ∧
    (s.faulted = false → s.pc.toNat ≤ 0xFFE → ∀ w : Word,
      w = s.readByte (BitVec.ofNat 12 s.pc.toNat) ++ s.readByte (BitVec.ofNat 12 (s.pc.toNat + 1)) →
      (∀ i t, decode w = .ok i → exec i (s.setPc (s.pc + 2#16)) = .next t →
        step s = .next (if t.faulted then t else t.tick)) ∧
      (∀ r, decode w = .error r → step s = .next (s.setPc (s.pc + 2#16)).tick))

/-- R99: an unknown encoding advances `PC` by 2, ticks the timers and changes nothing else. -/
def Obligations.UnknownEncodingIsASilentNoOp : Prop :=
  ∀ (s : State) (w : Word) (r : DecodeReject), s.faulted = false → s.fetchWord = some w → decode w = .error r →
    ∃ t, step s = .next t ∧ t.pc = s.pc + 2#16 ∧
      t.dt.toNat = s.dt.toNat - 1 ∧ t.st.toNat = s.st.toNat - 1 ∧
      ChangesOnly (· ∈ [Part.pc, Part.dt, Part.st]) s t

/-- The tick of 46_timer.md R223: every cycle that does not fault ends with exactly one tick, after the execute step, each
timer on its own and with floor 0. That a cycle that faults performs no tick is 60_exceptions.md R244, the spec's decision
D11 (log 4). -/
def Obligations.EveryCycleTicksBothTimersOnce : Prop :=
  ∀ s t : State, s.faulted = false → step s = .next t →
    (t.faulted = true → t.dt = s.dt ∧ t.st = s.st) ∧
    (t.faulted = false →
      t.dt.toNat = (match s.fetchedInstr with | some (.ldDtVx x) => s.getV x | _ => s.dt).toNat - 1 ∧
      t.st.toNat = (match s.fetchedInstr with | some (.ldStVx x) => s.getV x | _ => s.st).toNat - 1)

/-- No cycle and no execute step ends in the outcome `fault` or `refused`: each of them answers a next state. That
each fault is taken as a next state, and that a faulted machine goes on answering its own state, is the spec's decisions D11
and D22 (log 4). -/
def Obligations.EveryCycleAnswersANextState : Prop :=
  (∀ (i : Instr) (s : State), ∃ t, exec i s = .next t) ∧ ∀ s : State, ∃ t, step s = .next t

/-- A machine that is parked stays exactly as it is, for any number of cycles (70_reset_and_hazards.md R298, the spec's
own definition, D26; log 20). -/
def Obligations.ParkedMachineNeverChanges : Prop :=
  ∀ (s : State) (k : Nat), s.parked → Host.Core.run Sys2Proof.core k s = .next s

/-! ### Faults -/

/-- A faulted machine changes no state for any number of cycles, and each `Cycle` reports the same record again; every
command but `Reset` leaves the record as it is, so the machine stays faulted; `Reset` ends it (60_exceptions.md R248, the
spec's decision D22; log 4; the commands are those of log 13). -/
def Obligations.FaultedMachineStaysUntilReset : Prop :=
  ∀ s : State, s.faulted = true →
    (∀ k, Host.Core.run Sys2Proof.core k s = .next s) ∧ perform .cycle s = .next (s, .fault s.fault) ∧
    (∀ c : Command, c ≠ .reset → ∃ t reply, perform c s = .next (t, reply) ∧ t.fault = s.fault ∧ t.faulted = true) ∧
    perform .reset s = .next (s.resetAgain, .done) ∧ s.resetAgain.faulted = false

/-- Faults are precise: a cycle that raises one leaves every piece of state but the fault record as it was, and the
record names the address of the instruction and the stack pointer (60_exceptions.md R244, the spec's decision D11;
log 4). -/
def Obligations.FaultsLeaveNoPartialEffect : Prop :=
  ∀ s t : State, s.faulted = false → step s = .next t → t.faulted = true →
    t = { s with fault := t.fault } ∧ t.fault.pc = s.pc ∧ t.fault.sp = s.sp

/-- Which fault a cycle raises, and when: exactly on the conditions of the table of 60_exceptions.md R246, at most one a
cycle (D10, D11; log 4 and log 9). -/
def Obligations.FaultsAreRaisedExactlyWhenDue : Prop :=
  ∀ s t : State, s.faulted = false → step s = .next t → t.fault.cause = s.dueFault

/-- The record of `FetchRange` (60_exceptions.md R245, D10; log 9): the faulting `PC`, no word, the lowest out-of-range
byte address, the current `SP`. That nothing else changes, `PC` not advanced and no tick, is R244, the spec's decision D11
(log 4). -/
def Obligations.FetchRangeRecordsTheAddress : Prop :=
  ∀ s : State, s.faulted = false → 0xFFF ≤ s.pc.toNat →
    ∃ t, step s = .next t ∧ ChangesOnly (· = .fault) s t ∧
      t.fault = ⟨.fetchRange, s.pc, 0#16, if s.pc = 0xFFF#16 then 0x1000#16 else s.pc, s.sp⟩

/-- The records of the two stack faults (60_exceptions.md R241, R242, D11; log 4): the address of the instruction, its
word, address 0, the current `SP`; nothing else changes. -/
def Obligations.StackFaultsRecordTheInstruction : Prop :=
  (∀ (addr : Addr) (s : State), s.sp = 16 →
    ∃ t, exec (.call addr) s = .next t ∧ t.pc = s.pc - 2#16 ∧ ChangesOnly (· ∈ [Part.pc, Part.fault]) s t ∧
      t.fault = ⟨.stackOverflow, s.pc - 2#16, encode (.call addr), 0#16, 16⟩) ∧
  (∀ s : State, s.sp = 0 →
    ∃ t, exec .ret s = .next t ∧ t.pc = s.pc - 2#16 ∧ ChangesOnly (· ∈ [Part.pc, Part.fault]) s t ∧
      t.fault = ⟨.stackUnderflow, s.pc - 2#16, 0x00EE#16, 0#16, 0⟩)

/-- `MemRange` (60_exceptions.md R243, 20_memory.md R64, D10; log 9): each of the four instructions that access memory
through `I` raises it when its highest address is past 0xFFF, records that address, and has no effect at all. That `PC` goes back to
the instruction, that `FAULT` holds this record and that nothing else changes is 60_exceptions.md R244, the spec's decision
D11 (log 4). -/
def Obligations.AccessPastTheTopRaisesMemRange : Prop :=
  ∀ (i : Instr) (count : Nat) (s : State), indexCount i = some count → 1 ≤ count → 0xFFF < s.indexBase + count - 1 →
    ∃ t, exec i s = .next t ∧ t.pc = s.pc - 2#16 ∧ ChangesOnly (· ∈ [Part.pc, Part.fault]) s t ∧
      t.fault = ⟨.memRange, s.pc - 2#16, encode i, BitVec.ofNat 16 (s.indexBase + count - 1), s.sp⟩

/-! ### Invariants and whole-machine rules -/

/-- The reset state meets the invariant (the reset values are D1 and D16, log 1 and log 10, the record D11, log 4, the
memory form the model's, log 16). -/
def Obligations.ResetStateMeetsTheInvariant : Prop := State.reset.Inv

/-- Every cycle keeps the invariant: memory in its canonical form, `PC` at most 0x10FE (10_state.md R34), stack entries
at most 0x1000 (40_control_flow.md R121), the fault record a row of the table of 60_exceptions.md R246. The memory form is
the model's (log 16); the fault record is the spec's decision D11 (log 4); that `PC` is never masked and the ranges are
checked is D10 (log 9). -/
def Obligations.EveryCycleKeepsTheInvariant : Prop :=
  ∀ s t : State, s.Inv → step s = .next t → t.Inv

/-- Every command of the host keeps the invariant: `Reset`, `Load` of any ROM, fitting or not, `KeySet`, `Cycle` (the
commands are those of log 13, the memory form is the model's, log 16; the fault record is D11, log 4, the ranges D10,
log 9). -/
def Obligations.EveryCommandKeepsTheInvariant : Prop :=
  ∀ (c : Command) (s t : State) (reply : Reply), s.Inv → perform c s = .next (t, reply) → t.Inv

/-- Whatever commands the host issues after reset, in whatever order, the state meets the invariant (the commands are
those of log 13, the memory form is the model's, log 16; the fault record is D11, log 4, the ranges D10, log 9). -/
def Obligations.EveryReachableStateMeetsTheInvariant : Prop :=
  ∀ (cs : List Command) (s : State), performAll cs State.reset = .next s → s.Inv

/-- Who writes what in the execute step (the table of 10_state.md section 1): a register only an instruction that names it
as destination, or `VF` as its flag; `PC` only the jumps, `CALL`, `RET`, the six skips and `LD Vx, K` (10_state.md R32),
and the four accesses through `I` where they raise `MemRange`, which takes `PC` back to the instruction (D10, D11; log 9 and
log 4); memory only `LD B` and `LD [I]`; pixels only `CLS` and `DRW`; the stack pointer only `CALL` and `RET`, a stack entry
only `CALL`, and no stack instruction memory (D24, log 18); `I` only its three writers, not the block transfers nor `DRW`
(D8, log 7); `VF` as a flag only the seven flag writers (D6 and D7, log 7); each timer only its own load; the fault record
only the six instructions that can fault; keys nothing; the model's own counter of draws (log 3) only `RND`. -/
def Obligations.EachPartIsWrittenOnlyByItsInstructions : Prop :=
  ∀ (i : Instr) (s t : State), exec i s = .next t →
    (∀ k, t.getV k ≠ s.getV k → k ∈ writtenRegisters i) ∧
    (t.pc ≠ s.pc →
      (∃ a, i ∈ [.jp a, .jpV0 a, .call a]) ∨ i = .ret ∨
      (∃ x y kk, i ∈ [.seImm x kk, .sneImm x kk, .seReg x y, .sneReg x y, .skp x, .sknp x, .ldVxKey x]) ∨
      ∃ n, indexCount i = some n ∧ 1 ≤ n ∧ 0xFFF < s.indexBase + n - 1) ∧
    ((∃ a, t.readByte a ≠ s.readByte a) → (∃ x, i = .ldBcd x) ∨ (∃ x, i = .storeRegs x)) ∧
    ((∃ px py, t.fb.pixel px py ≠ s.fb.pixel px py) → i = .cls ∨ ∃ x y n, i = .drw x y n) ∧
    (t.sp ≠ s.sp → i = .ret ∨ ∃ a, i = .call a) ∧
    ((∃ k : Fin 16, t.stack[k.val] ≠ s.stack[k.val]) → ∃ a, i = .call a) ∧
    (t.i ≠ s.i → (∃ a, i = .ldI a) ∨ (∃ x, i = .addI x) ∨ (∃ x, i = .ldFont x)) ∧
    (t.dt ≠ s.dt → ∃ x, i = .ldDtVx x) ∧
    (t.st ≠ s.st → ∃ x, i = .ldStVx x) ∧
    (t.fault ≠ s.fault → i = .ret ∨ (∃ a, i = .call a) ∨ ∃ n, indexCount i = some n) ∧
    (∀ k, t.isPressed k = s.isPressed k) ∧
    (t.draws ≠ s.draws → ∃ x kk, i = .rnd x kk)

/-- `VF` as a flag (10_state.md R26, R27, with D5 to D7; log 6 and log 7): the seven flag writers leave 0 or 1 in it on
every execution that raises no fault; any other instruction changes it only as its named destination. -/
def Obligations.VfIsWrittenOnlyAsFlagOrDestination : Prop :=
  ∀ (i : Instr) (s t : State), exec i s = .next t →
    (∀ x y kk n, i ∈ [.addImm x kk, .addReg x y, .subReg x y, .subnReg x y, .shr x y, .shl x y, .drw x y n] →
      s.faulted = false → t.faulted = false → t.getV 15 = 0#8 ∨ t.getV 15 = 1#8) ∧
    (t.getV 15 ≠ s.getV 15 →
      (∃ x y kk n, i ∈ [.addImm x kk, .addReg x y, .subReg x y, .subnReg x y, .shr x y, .shl x y, .drw x y n]) ∨
      ∃ y kk, i ∈ [.ldImm 15 kk, .ldReg 15 y, .orReg 15 y, .andReg 15 y, .xorReg 15 y, .rnd 15 kk, .ldVxDt 15,
        .ldVxKey 15, .loadRegs 15])

/-! ### Control flow -/

/-- R120: `JP` sets `PC` to `addr` and changes nothing else. -/
def Obligations.JumpSetsPc : Prop :=
  ∀ (addr : Addr) (s : State),
    ∃ t, exec (.jp addr) s = .next t ∧ t.pc = addr.setWidth 16 ∧ ChangesOnly (· = .pc) s t

/-- `JP V0, addr` adds `V0` to `addr`, never masked (40_control_flow.md R127, with D10; log 9), and changes nothing
else. -/
def Obligations.IndexedJumpAddsV0 : Prop :=
  ∀ (addr : Addr) (s : State),
    ∃ t, exec (.jpV0 addr) s = .next t ∧ t.pc.toNat = addr.toNat + (s.getV 0).toNat ∧ ChangesOnly (· = .pc) s t

/-- `CALL` with room on the stack pushes the already-advanced `PC`, increments `SP` and jumps; with `SP` = 16 it raises
`StackOverflow` and writes nothing (40_control_flow.md R121). That a fault takes `PC` back and changes only `FAULT` is the
spec's decision D11 (log 4); that the push leaves all of memory unchanged rests on D24, the stack outside memory (log 18). -/
def Obligations.CallPushesTheReturnAddress : Prop :=
  ∀ (addr : Addr) (s : State),
    (∀ k : Fin 16, k.val = s.sp.val →
      ∃ t, exec (.call addr) s = .next t ∧ t.stack[k.val] = s.pc ∧ t.sp.val = s.sp.val + 1 ∧
        t.pc = addr.setWidth 16 ∧ ChangesOnly (· ∈ [Part.pc, Part.sp, Part.stack k]) s t) ∧
    (s.sp = 16 →
      ∃ t, exec (.call addr) s = .next t ∧ t.fault.cause = .stackOverflow ∧ t.pc = s.pc - 2#16 ∧
        ChangesOnly (· ∈ [Part.pc, Part.fault]) s t)

/-- `RET` with a call pending decrements `SP` and sets `PC` to the entry at the decremented pointer, which stays in the
stack; with `SP` = 0 it raises `StackUnderflow` and writes nothing (40_control_flow.md R122). That a fault takes `PC` back
and changes only `FAULT` is the spec's decision D11 (log 4); that the stack is outside memory is D24, and with it and the
entry left in place stands log 18. -/
def Obligations.ReturnPopsIntoPc : Prop :=
  ∀ s : State,
    (∀ k : Fin 16, k.val + 1 = s.sp.val →
      ∃ t, exec .ret s = .next t ∧ t.pc = s.stack[k.val] ∧ t.sp.val = k.val ∧
        ChangesOnly (· ∈ [Part.pc, Part.sp]) s t) ∧
    (s.sp = 0 →
      ∃ t, exec .ret s = .next t ∧ t.fault.cause = .stackUnderflow ∧ t.pc = s.pc - 2#16 ∧
        ChangesOnly (· ∈ [Part.pc, Part.fault]) s t)

/-- A call and then a return, wherever `PC` has gone in between, comes back to the instruction after the call with the
stack pointer as before (the document's property in 40_control_flow.md R122 and example X4). -/
def Obligations.ReturnComesBackToTheCall : Prop :=
  ∀ (addr : Addr) (s t : State) (p : Word), s.sp ≠ 16 → exec (.call addr) s = .next t →
    ∃ u, exec .ret (t.setPc p) = .next u ∧ u.pc = s.pc ∧ u.sp = s.sp

/-- R123, R124, R125, R126: each skip advances `PC` by a further 2 exactly when its condition holds, and changes nothing
else. -/
def Obligations.SkipsAdvancePcOnTheirCondition : Prop :=
  ∀ (x y : Reg) (kk : Byte) (s : State),
    (∃ t, exec (.seImm x kk) s = .next t ∧ t.pc = (if s.getV x = kk then s.pc + 2#16 else s.pc) ∧
      ChangesOnly (· = .pc) s t) ∧
    (∃ t, exec (.sneImm x kk) s = .next t ∧ t.pc = (if s.getV x ≠ kk then s.pc + 2#16 else s.pc) ∧
      ChangesOnly (· = .pc) s t) ∧
    (∃ t, exec (.seReg x y) s = .next t ∧ t.pc = (if s.getV x = s.getV y then s.pc + 2#16 else s.pc) ∧
      ChangesOnly (· = .pc) s t) ∧
    (∃ t, exec (.sneReg x y) s = .next t ∧ t.pc = (if s.getV x ≠ s.getV y then s.pc + 2#16 else s.pc) ∧
      ChangesOnly (· = .pc) s t)

/-- R128: the execute step of `SYS` does nothing, whatever its `addr`. -/
def Obligations.SysDoesNothing : Prop :=
  ∀ (addr : Addr) (s : State), exec (.sys addr) s = .next s

/-! ### Loads, arithmetic and logic -/

/-- R140, R142: a load of an immediate or of a register is exact and writes no flag and nothing else. -/
def Obligations.PlainLoadsAreExact : Prop :=
  ∀ (x y : Reg) (kk : Byte) (s : State),
    (∃ t, exec (.ldImm x kk) s = .next t ∧ t.getV x = kk ∧ ChangesOnly (· = .v x) s t) ∧
    (∃ t, exec (.ldReg x y) s = .next t ∧ t.getV x = s.getV y ∧ ChangesOnly (· = .v x) s t)

/-- `OR`, `AND`, `XOR` combine two registers in place, bit by bit, and change nothing else, `VF` in particular
(41_load_arith.md R143 to R145, with D6; log 7). -/
def Obligations.BitwiseOperationsCombineInPlace : Prop :=
  ∀ (x y : Reg) (s : State),
    (∃ t, exec (.orReg x y) s = .next t ∧ ChangesOnly (· = .v x) s t ∧
      ∀ j < 8, (t.getV x).getLsbD j = ((s.getV x).getLsbD j || (s.getV y).getLsbD j)) ∧
    (∃ t, exec (.andReg x y) s = .next t ∧ ChangesOnly (· = .v x) s t ∧
      ∀ j < 8, (t.getV x).getLsbD j = ((s.getV x).getLsbD j && (s.getV y).getLsbD j)) ∧
    (∃ t, exec (.xorReg x y) s = .next t ∧ ChangesOnly (· = .v x) s t ∧
      ∀ j < 8, (t.getV x).getLsbD j = ((s.getV x).getLsbD j ^^ (s.getV y).getLsbD j))

/-- Both additions store the sum modulo 256 and set `VF` to 1 exactly when the sum exceeds 255; with `x` = 15 the sum is
discarded and the flag stays (41_load_arith.md R141, R146; the case `x` = 15 is the spec's decision D5, log 6). -/
def Obligations.AdditionsWrapAndSetCarry : Prop :=
  ∀ (x y : Reg) (kk : Byte) (s : State),
    (∃ t, exec (.addImm x kk) s = .next t ∧ ChangesOnly (· ∈ [Part.v x, Part.v 15]) s t ∧
      (x ≠ 15 → (t.getV x).toNat = ((s.getV x).toNat + kk.toNat) % 256) ∧
      t.getV 15 = if (s.getV x).toNat + kk.toNat > 255 then 1#8 else 0#8) ∧
    (∃ t, exec (.addReg x y) s = .next t ∧ ChangesOnly (· ∈ [Part.v x, Part.v 15]) s t ∧
      (x ≠ 15 → (t.getV x).toNat = ((s.getV x).toNat + (s.getV y).toNat) % 256) ∧
      t.getV 15 = if (s.getV x).toNat + (s.getV y).toNat > 255 then 1#8 else 0#8)

/-- `SUB` and `SUBN` store the difference modulo 256, the operands in opposite order, and set `VF` to 1 exactly when
there is no borrow; with `x` = 15 the flag stays (41_load_arith.md R147, R148; the case `x` = 15 is D5, log 6). -/
def Obligations.SubtractionsWrapAndSetNoBorrow : Prop :=
  ∀ (x y : Reg) (s : State),
    (∃ t, exec (.subReg x y) s = .next t ∧ ChangesOnly (· ∈ [Part.v x, Part.v 15]) s t ∧
      (x ≠ 15 → ((t.getV x).toNat : Int) = ((s.getV x).toNat - (s.getV y).toNat) % 256) ∧
      t.getV 15 = if (s.getV x).toNat ≥ (s.getV y).toNat then 1#8 else 0#8) ∧
    (∃ t, exec (.subnReg x y) s = .next t ∧ ChangesOnly (· ∈ [Part.v x, Part.v 15]) s t ∧
      (x ≠ 15 → ((t.getV x).toNat : Int) = ((s.getV y).toNat - (s.getV x).toNat) % 256) ∧
      t.getV 15 = if (s.getV y).toNat ≥ (s.getV x).toNat then 1#8 else 0#8)

/-! ### Shifts and the random byte -/

/-- `SHR` and `SHL` shift `V[x]` by one in place and put the bit shifted out into `VF` as 0 or 1; `y` has no influence
(42_shift_random.md R160, R161, with D4, log 12); with `x` = 15 the flag stays (D5, log 6). -/
def Obligations.ShiftsPutTheLostBitInVf : Prop :=
  ∀ (x y : Reg) (s : State),
    (∃ t, exec (.shr x y) s = .next t ∧ ChangesOnly (· ∈ [Part.v x, Part.v 15]) s t ∧
      (x ≠ 15 → (t.getV x).toNat = (s.getV x).toNat / 2) ∧ (t.getV 15).toNat = (s.getV x).toNat % 2) ∧
    (∃ t, exec (.shl x y) s = .next t ∧ ChangesOnly (· ∈ [Part.v x, Part.v 15]) s t ∧
      (x ≠ 15 → (t.getV x).toNat = (s.getV x).toNat * 2 % 256) ∧ (t.getV 15).toNat = (s.getV x).toNat / 128)

/-- `RND` stores the byte drawn in this cycle under the mask `kk`, whatever the byte is, and uses up one draw; every bit
that is 0 in `kk` is 0 in the result (42_shift_random.md R162, R163; that the draw is free is D18, the free value
and its counter are the model's, log 3). -/
def Obligations.RandomByteIsMasked : Prop :=
  ∀ (x : Reg) (kk : Byte) (s : State),
    ∃ t, exec (.rnd x kk) s = .next t ∧ ChangesOnly (· ∈ [Part.v x, Part.draws]) s t ∧ t.draws = s.draws + 1 ∧
      t.getV x = Config.rndIn s.draws &&& kk ∧ ∀ j, kk.getLsbD j = false → (t.getV x).getLsbD j = false

/-! ### The index register and memory -/

/-- R170: `LD I` sets `I` to `addr`, the upper four bits 0, and changes nothing else. -/
def Obligations.LoadIndexSetsI : Prop :=
  ∀ (addr : Addr) (s : State),
    ∃ t, exec (.ldI addr) s = .next t ∧ t.i.toNat = addr.toNat ∧ ChangesOnly (· = .i) s t

/-- `ADD I` adds modulo 65536 and `LD F` points at the glyph of the low nibble; neither changes anything but `I`, no flag
in particular (43_index_memory.md R171, R172; the width and the missing flag are D7, log 7, the font base D2, log 1). -/
def Obligations.IndexArithmeticChangesOnlyI : Prop :=
  ∀ (x : Reg) (s : State),
    (∃ t, exec (.addI x) s = .next t ∧ t.i.toNat = (s.i.toNat + (s.getV x).toNat) % 65536 ∧
      ChangesOnly (· = .i) s t) ∧
    (∃ t, exec (.ldFont x) s = .next t ∧
      t.i.toNat = hardware.fontBase.toNat + 5 * ((s.getV x).toNat % 16) ∧ ChangesOnly (· = .i) s t)

/-- `LD B` stores the hundreds, tens and units digit of `V[x]` at `I[11:0]` and the two bytes after it, and changes
nothing else (43_index_memory.md R173; the range check is D10, log 9). That `I` is unchanged is R176, the spec's decision
D8 (log 7). -/
def Obligations.DecimalDigitsAreStored : Prop :=
  ∀ (x : Reg) (s : State), s.indexBase + 2 ≤ 0xFFF →
    ∃ t, exec (.ldBcd x) s = .next t ∧
      (t.readByte (BitVec.ofNat 12 s.indexBase)).toNat = (s.getV x).toNat / 100 ∧
      (t.readByte (BitVec.ofNat 12 (s.indexBase + 1))).toNat = (s.getV x).toNat / 10 % 10 ∧
      (t.readByte (BitVec.ofNat 12 (s.indexBase + 2))).toNat = (s.getV x).toNat % 10 ∧
      ChangesOnly (fun p => ∃ a, p = .mem a ∧ s.inIndexRange 3 a) s t

/-- `LD [I], Vx` stores `V[k]` at `I[11:0] + k` for `k` from 0 to `x`; every other byte and everything else is unchanged
(43_index_memory.md R174; the range check is D10, log 9). That `I` is unchanged is R176, the spec's decision D8 (log 7). -/
def Obligations.BlockStoreCopiesRegistersToMemory : Prop :=
  ∀ (x : Reg) (s : State), s.indexBase + x.val ≤ 0xFFF →
    ∃ t, exec (.storeRegs x) s = .next t ∧
      (∀ k : Reg, k ≤ x → t.readByte (BitVec.ofNat 12 (s.indexBase + k.val)) = s.getV k) ∧
      ChangesOnly (fun p => ∃ a, p = .mem a ∧ s.inIndexRange (x.val + 1) a) s t

/-- `LD Vx, [I]` loads `V[k]` from `I[11:0] + k` for `k` from 0 to `x`; registers above `V[x]` and everything else are
unchanged (43_index_memory.md R175; the range check is D10, log 9). That `I` is unchanged is R176, the spec's decision D8
(log 7). -/
def Obligations.BlockLoadCopiesMemoryToRegisters : Prop :=
  ∀ (x : Reg) (s : State), s.indexBase + x.val ≤ 0xFFF →
    ∃ t, exec (.loadRegs x) s = .next t ∧
      (∀ k : Reg, k ≤ x → t.getV k = s.readByte (BitVec.ofNat 12 (s.indexBase + k.val))) ∧
      ChangesOnly (fun p => ∃ k : Reg, p = .v k ∧ k ≤ x) s t

/-- A block store and then a block load from the same location restores the registers, whatever was written to the
registers in between (the document's property in 43_index_memory.md R175 and example X8, which rests on D8, log 7; the range is D10, log 9). -/
def Obligations.BlockLoadRestoresStoredRegisters : Prop :=
  ∀ (x : Reg) (s t u : State), s.indexBase + x.val ≤ 0xFFF → exec (.storeRegs x) s = .next t →
    u.mem = t.mem → u.i = t.i →
    ∃ w, exec (.loadRegs x) u = .next w ∧ ∀ k : Reg, k ≤ x → w.getV k = s.getV k

/-- A store is seen by the very next fetch (20_memory.md R74, a rule the spec marks as derived): when a block store
covers the two bytes at `PC`, the next word fetched is made of the registers stored there (the range is D10, log 9). -/
def Obligations.StoredBytesAreFetchedNext : Prop :=
  ∀ (x j k : Reg) (s t : State), s.indexBase + x.val ≤ 0xFFF → exec (.storeRegs x) s = .next t →
    j ≤ x → k ≤ x → k.val = j.val + 1 → s.pc.toNat = s.indexBase + j.val →
    t.fetchWord = some (s.getV j ++ s.getV k)

/-! ### The display -/

/-- R190: `CLS` makes every pixel 0 and changes nothing else. -/
def Obligations.ClearMakesEveryPixelZero : Prop :=
  ∀ s : State, ∃ t, exec .cls s = .next t ∧ (∀ px py, t.fb.pixel px py = false) ∧
    ChangesOnly (fun p => ∃ px py, p = .pixel px py) s t

/-- `Draw` XORs the sprite into the framebuffer, every coordinate reduced modulo 64 and 32: a pixel changes exactly when
some bit of the sprite that is 1 lands on it (44_display.md R192, R194; that bit 7 is the left end is D15, log 11). -/
def Obligations.DrawXorsTheSpriteWithWrapAround : Prop :=
  ∀ (fb : Framebuffer) (x0 y0 : Byte) (rows : List Byte), rows.length ≤ 15 →
    ∀ px py, (fb.draw x0 y0 rows).1.pixel px py = (fb.pixel px py ^^ spriteCovers x0 y0 rows px py)

/-- R193: a collision is reported exactly when at least one pixel that was 1 before the draw is 0 after it. -/
def Obligations.CollisionMeansALitPixelWasErased : Prop :=
  ∀ (fb : Framebuffer) (x0 y0 : Byte) (rows : List Byte), rows.length ≤ 15 →
    ((fb.draw x0 y0 rows).2 = true ↔
      ∃ px py, fb.pixel px py = true ∧ (fb.draw x0 y0 rows).1.pixel px py = false)

/-- Drawing the same sprite twice at the same origin restores the framebuffer; the second draw reports a collision
exactly when some covered pixel was 0 before the first, in particular when the sprite has a bit that is 1 and all the
pixels it covers were 0 (44_display.md R196 (c), a rule the spec marks as derived; which pixels a sprite covers rests on
D15, log 11). -/
def Obligations.DrawingTwiceRestoresTheDisplay : Prop :=
  ∀ (fb : Framebuffer) (x0 y0 : Byte) (rows : List Byte), rows.length ≤ 15 →
    ((fb.draw x0 y0 rows).1.draw x0 y0 rows).1 = fb ∧
    (((fb.draw x0 y0 rows).1.draw x0 y0 rows).2 = true ↔
      ∃ px py, spriteCovers x0 y0 rows px py = true ∧ fb.pixel px py = false) ∧
    (spriteHasBit rows = true → (∀ px py, spriteCovers x0 y0 rows px py = true → fb.pixel px py = false) →
      ((fb.draw x0 y0 rows).1.draw x0 y0 rows).2 = true)

/-- `DRW` blits the `n` bytes at `I[11:0]` at the origin (`V[x]`, `V[y]`), both read before `VF` is written, and leaves
`VF` = 1 exactly when no lit pixel was turned off (44_display.md R191; the polarity is D3, log 2, the range check D10,
log 9, the bit order D15 and the case `n` = 0 D27, log 11). That `I` is unchanged is 43_index_memory.md R176, the spec's
decision D8 (log 7). -/
def Obligations.DrawInstructionBlitsMemory : Prop :=
  ∀ (x y : Reg) (n : Nibble) (s : State), n = 0#4 ∨ s.indexBase + n.toNat ≤ 0x1000 →
    ∃ t, exec (.drw x y n) s = .next t ∧
      (∀ px py, t.fb.pixel px py =
        (s.fb.pixel px py ^^ spriteCovers (s.getV x) (s.getV y)
          ((List.range n.toNat).map fun r => s.readByte (BitVec.ofNat 12 (s.indexBase + r))) px py)) ∧
      ((∃ px py, s.fb.pixel px py = true ∧ t.fb.pixel px py = false) → t.getV 15 = 0#8) ∧
      ((∀ px py, s.fb.pixel px py = true → t.fb.pixel px py = true) → t.getV 15 = 1#8) ∧
      ChangesOnly (fun p => p = .v 15 ∨ ∃ px py, p = .pixel px py) s t

/-! ### The keypad -/

/-- `SKP` and `SKNP` skip on the level of the key that the low nibble of `V[x]` names, and change nothing else
(45_keypad.md R211, R212; the low nibble is D9, log 8; that keys are levels, R210, is D19, log 19). -/
def Obligations.KeySkipsFollowTheNamedKey : Prop :=
  ∀ (x : Reg) (k : Key) (s : State), k.val = (s.getV x).toNat % 16 →
    (∃ t, exec (.skp x) s = .next t ∧ t.pc = (if s.isPressed k then s.pc + 2#16 else s.pc) ∧
      ChangesOnly (· = .pc) s t) ∧
    (∃ t, exec (.sknp x) s = .next t ∧ t.pc = (if s.isPressed k then s.pc else s.pc + 2#16) ∧
      ChangesOnly (· = .pc) s t)

/-- `LD Vx, K` with no key pressed takes `PC` back to the instruction; with a key pressed it records the lowest-indexed
pressed key in `V[x]`; it changes nothing else (45_keypad.md R213). That keys are levels, so that a key held since before
the instruction completes it, is the spec's decision D19 (log 19). -/
def Obligations.KeyWaitTakesTheLowestKeyOrPolls : Prop :=
  ∀ (x : Reg) (s : State),
    ((∀ k, s.isPressed k = false) →
      ∃ t, exec (.ldVxKey x) s = .next t ∧ t.pc = s.pc - 2#16 ∧ ChangesOnly (· = .pc) s t) ∧
    (∀ k : Key, s.isPressed k = true → (∀ j : Key, j < k → s.isPressed j = false) →
      ∃ t, exec (.ldVxKey x) s = .next t ∧ (t.getV x).toNat = k.val ∧ ChangesOnly (· = .v x) s t)

/-- A cycle that polls leaves the machine at the same instruction, changes no register and ticks the timers
(45_keypad.md R213, R215; that keys are levels is D19, log 19). -/
def Obligations.PollingCycleStaysAtTheInstruction : Prop :=
  ∀ (x : Reg) (s : State), s.faulted = false → s.fetchedInstr = some (.ldVxKey x) → (∀ k, s.isPressed k = false) →
    ∃ t, step s = .next t ∧ t.fetchedInstr = some (.ldVxKey x) ∧ t.pc = s.pc ∧
      t.dt.toNat = s.dt.toNat - 1 ∧ t.st.toNat = s.st.toNat - 1 ∧ ChangesOnly (· ∈ [Part.dt, Part.st]) s t

/-! ### The timers and the tone -/

/-- The three timer moves copy the value and change nothing else in the execute step (46_timer.md R220, R221, R222); the
cycle that runs `LD DT` or `LD ST` then ends with the value less the tick of that cycle (R223), which R221 and R222 state
as derived. -/
def Obligations.TimerMovesCopyTheValue : Prop :=
  ∀ (x : Reg) (s : State),
    (∃ t, exec (.ldVxDt x) s = .next t ∧ t.getV x = s.dt ∧ ChangesOnly (· = .v x) s t) ∧
    (∃ t, exec (.ldDtVx x) s = .next t ∧ t.dt = s.getV x ∧ ChangesOnly (· = .dt) s t) ∧
    (∃ t, exec (.ldStVx x) s = .next t ∧ t.st = s.getV x ∧ ChangesOnly (· = .st) s t) ∧
    (s.faulted = false → s.fetchedInstr = some (.ldVxDt x) →
      ∃ t, step s = .next t ∧ t.getV x = s.dt ∧ t.dt.toNat = s.dt.toNat - 1) ∧
    (s.faulted = false → s.fetchedInstr = some (.ldDtVx x) →
      ∃ t, step s = .next t ∧ t.dt.toNat = (s.getV x).toNat - 1) ∧
    (s.faulted = false → s.fetchedInstr = some (.ldStVx x) →
      ∃ t, step s = .next t ∧ t.st.toNat = (s.getV x).toNat - 1)

/-- The tone the host reads after a cycle that sets the sound timer is on exactly when the value set is at least 2
(46_timer.md R222, R224; that the host reads it after the tick is D28, log 19). -/
def Obligations.ToneIsHeardFromTwoOn : Prop :=
  ∀ (x : Reg) (s t : State), s.faulted = false → s.fetchedInstr = some (.ldStVx x) → step s = .next t →
    (t.tone = true ↔ 2 ≤ (s.getV x).toNat)

/-! ### The host's commands and outputs -/

/-- R296: `KeySet(k, b)` sets `KEYS[k]` and changes nothing else, in the faulted state too. -/
def Obligations.KeySetChangesOneKey : Prop :=
  ∀ (k : Key) (b : Bool) (s : State),
    ∃ t, perform (.keySet k b) s = .next (t, .done) ∧ t.isPressed k = b ∧ ChangesOnly (· = .key k) s t

/-- `Load` of at most `MAX_ROM` = 3584 bytes copies them to `PROGRAM_START` on and changes nothing else; a longer ROM is
reported and changes nothing (70_reset_and_hazards.md R283; the rejection is D21, log 13, the number rests on D1,
log 1). -/
def Obligations.LoadCopiesTheRomOrRejectsIt : Prop :=
  ∀ (bytes : List Byte) (s : State),
    (bytes.length ≤ 3584 →
      ∃ t, perform (.load bytes) s = .next (t, .done) ∧
        (∀ k (h : k < bytes.length), t.readByte (BitVec.ofNat 12 (0x200 + k)) = bytes[k]) ∧
        ChangesOnly (fun p => ∃ a, p = .mem a ∧ 0x200 ≤ a.toNat ∧ a.toNat < 0x200 + bytes.length) s t) ∧
    (3584 < bytes.length → perform (.load bytes) s = .next (s, .loadError))

/-- `Reset` puts every piece of state at its reset value, whatever it was before; only the model's own counter of draws
goes on (70_reset_and_hazards.md R280; the values the document does not give are D16 and D11, log 10; the counter is the
model's, log 3). -/
def Obligations.ResetCommandRestoresTheResetState : Prop :=
  ∀ s : State, ∃ t, perform .reset s = .next (t, .done) ∧ t.draws = s.draws ∧
    ChangesOnly (· = .draws) State.reset t

/-- R198: bit `y × 64 + x` of `fb_out` is the pixel in row `y` and column `x`. -/
def Obligations.FramebufferIsExportedRowMajor : Prop :=
  ∀ (px : Fin 64) (py : Fin 32) (s : State) (h : py.val * 64 + px.val < 2048),
    s.fbOut[py.val * 64 + px.val] = s.fb.pixel px py
end

