-- ==== Sys2Proof/Laws/State.lean ====
section
/-! SUPPORT. One lemma per field per update of State, and the reads of registers, memory bytes and keys through each
update, so that no proof unfolds a record update. -/

namespace Sys2Proof.Machine
namespace State

/-! ### `setV` -/

@[simp] theorem setV_v (s : State) (x : Reg) (b : Byte) : (s.setV x b).v = s.v.set x.val b := rfl
@[simp] theorem setV_i (s : State) (x : Reg) (b : Byte) : (s.setV x b).i = s.i := rfl
@[simp] theorem setV_pc (s : State) (x : Reg) (b : Byte) : (s.setV x b).pc = s.pc := rfl
@[simp] theorem setV_sp (s : State) (x : Reg) (b : Byte) : (s.setV x b).sp = s.sp := rfl
@[simp] theorem setV_stack (s : State) (x : Reg) (b : Byte) : (s.setV x b).stack = s.stack := rfl
@[simp] theorem setV_dt (s : State) (x : Reg) (b : Byte) : (s.setV x b).dt = s.dt := rfl
@[simp] theorem setV_st (s : State) (x : Reg) (b : Byte) : (s.setV x b).st = s.st := rfl
@[simp] theorem setV_mem (s : State) (x : Reg) (b : Byte) : (s.setV x b).mem = s.mem := rfl
@[simp] theorem setV_fb (s : State) (x : Reg) (b : Byte) : (s.setV x b).fb = s.fb := rfl
@[simp] theorem setV_keys (s : State) (x : Reg) (b : Byte) : (s.setV x b).keys = s.keys := rfl
@[simp] theorem setV_fault (s : State) (x : Reg) (b : Byte) : (s.setV x b).fault = s.fault := rfl
@[simp] theorem setV_draws (s : State) (x : Reg) (b : Byte) : (s.setV x b).draws = s.draws := rfl

/-! ### `setPc` -/

@[simp] theorem setPc_v (s : State) (t : Word) : (s.setPc t).v = s.v := rfl
@[simp] theorem setPc_i (s : State) (t : Word) : (s.setPc t).i = s.i := rfl
@[simp] theorem setPc_pc (s : State) (t : Word) : (s.setPc t).pc = t := rfl
@[simp] theorem setPc_sp (s : State) (t : Word) : (s.setPc t).sp = s.sp := rfl
@[simp] theorem setPc_stack (s : State) (t : Word) : (s.setPc t).stack = s.stack := rfl
@[simp] theorem setPc_dt (s : State) (t : Word) : (s.setPc t).dt = s.dt := rfl
@[simp] theorem setPc_st (s : State) (t : Word) : (s.setPc t).st = s.st := rfl
@[simp] theorem setPc_mem (s : State) (t : Word) : (s.setPc t).mem = s.mem := rfl
@[simp] theorem setPc_fb (s : State) (t : Word) : (s.setPc t).fb = s.fb := rfl
@[simp] theorem setPc_keys (s : State) (t : Word) : (s.setPc t).keys = s.keys := rfl
@[simp] theorem setPc_fault (s : State) (t : Word) : (s.setPc t).fault = s.fault := rfl
@[simp] theorem setPc_draws (s : State) (t : Word) : (s.setPc t).draws = s.draws := rfl

/-! ### `setI` -/

@[simp] theorem setI_v (s : State) (a : Word) : (s.setI a).v = s.v := rfl
@[simp] theorem setI_i (s : State) (a : Word) : (s.setI a).i = a := rfl
@[simp] theorem setI_pc (s : State) (a : Word) : (s.setI a).pc = s.pc := rfl
@[simp] theorem setI_sp (s : State) (a : Word) : (s.setI a).sp = s.sp := rfl
@[simp] theorem setI_stack (s : State) (a : Word) : (s.setI a).stack = s.stack := rfl
@[simp] theorem setI_dt (s : State) (a : Word) : (s.setI a).dt = s.dt := rfl
@[simp] theorem setI_st (s : State) (a : Word) : (s.setI a).st = s.st := rfl
@[simp] theorem setI_mem (s : State) (a : Word) : (s.setI a).mem = s.mem := rfl
@[simp] theorem setI_fb (s : State) (a : Word) : (s.setI a).fb = s.fb := rfl
@[simp] theorem setI_keys (s : State) (a : Word) : (s.setI a).keys = s.keys := rfl
@[simp] theorem setI_fault (s : State) (a : Word) : (s.setI a).fault = s.fault := rfl
@[simp] theorem setI_draws (s : State) (a : Word) : (s.setI a).draws = s.draws := rfl

/-! ### `setDt` -/

@[simp] theorem setDt_v (s : State) (b : Byte) : (s.setDt b).v = s.v := rfl
@[simp] theorem setDt_i (s : State) (b : Byte) : (s.setDt b).i = s.i := rfl
@[simp] theorem setDt_pc (s : State) (b : Byte) : (s.setDt b).pc = s.pc := rfl
@[simp] theorem setDt_sp (s : State) (b : Byte) : (s.setDt b).sp = s.sp := rfl
@[simp] theorem setDt_stack (s : State) (b : Byte) : (s.setDt b).stack = s.stack := rfl
@[simp] theorem setDt_dt (s : State) (b : Byte) : (s.setDt b).dt = b := rfl
@[simp] theorem setDt_st (s : State) (b : Byte) : (s.setDt b).st = s.st := rfl
@[simp] theorem setDt_mem (s : State) (b : Byte) : (s.setDt b).mem = s.mem := rfl
@[simp] theorem setDt_fb (s : State) (b : Byte) : (s.setDt b).fb = s.fb := rfl
@[simp] theorem setDt_keys (s : State) (b : Byte) : (s.setDt b).keys = s.keys := rfl
@[simp] theorem setDt_fault (s : State) (b : Byte) : (s.setDt b).fault = s.fault := rfl
@[simp] theorem setDt_draws (s : State) (b : Byte) : (s.setDt b).draws = s.draws := rfl

/-! ### `setSt` -/

@[simp] theorem setSt_v (s : State) (b : Byte) : (s.setSt b).v = s.v := rfl
@[simp] theorem setSt_i (s : State) (b : Byte) : (s.setSt b).i = s.i := rfl
@[simp] theorem setSt_pc (s : State) (b : Byte) : (s.setSt b).pc = s.pc := rfl
@[simp] theorem setSt_sp (s : State) (b : Byte) : (s.setSt b).sp = s.sp := rfl
@[simp] theorem setSt_stack (s : State) (b : Byte) : (s.setSt b).stack = s.stack := rfl
@[simp] theorem setSt_dt (s : State) (b : Byte) : (s.setSt b).dt = s.dt := rfl
@[simp] theorem setSt_st (s : State) (b : Byte) : (s.setSt b).st = b := rfl
@[simp] theorem setSt_mem (s : State) (b : Byte) : (s.setSt b).mem = s.mem := rfl
@[simp] theorem setSt_fb (s : State) (b : Byte) : (s.setSt b).fb = s.fb := rfl
@[simp] theorem setSt_keys (s : State) (b : Byte) : (s.setSt b).keys = s.keys := rfl
@[simp] theorem setSt_fault (s : State) (b : Byte) : (s.setSt b).fault = s.fault := rfl
@[simp] theorem setSt_draws (s : State) (b : Byte) : (s.setSt b).draws = s.draws := rfl

/-! ### `setFlag` -/

@[simp] theorem setFlag_i (s : State) (f : Bool) : (s.setFlag f).i = s.i := rfl
@[simp] theorem setFlag_pc (s : State) (f : Bool) : (s.setFlag f).pc = s.pc := rfl
@[simp] theorem setFlag_sp (s : State) (f : Bool) : (s.setFlag f).sp = s.sp := rfl
@[simp] theorem setFlag_stack (s : State) (f : Bool) : (s.setFlag f).stack = s.stack := rfl
@[simp] theorem setFlag_dt (s : State) (f : Bool) : (s.setFlag f).dt = s.dt := rfl
@[simp] theorem setFlag_st (s : State) (f : Bool) : (s.setFlag f).st = s.st := rfl
@[simp] theorem setFlag_mem (s : State) (f : Bool) : (s.setFlag f).mem = s.mem := rfl
@[simp] theorem setFlag_fb (s : State) (f : Bool) : (s.setFlag f).fb = s.fb := rfl
@[simp] theorem setFlag_keys (s : State) (f : Bool) : (s.setFlag f).keys = s.keys := rfl
@[simp] theorem setFlag_fault (s : State) (f : Bool) : (s.setFlag f).fault = s.fault := rfl
@[simp] theorem setFlag_draws (s : State) (f : Bool) : (s.setFlag f).draws = s.draws := rfl

/-! ### `writeResult` -/

@[simp] theorem writeResult_i (s : State) (x : Reg) (r : Byte) (f : Bool) : (s.writeResult x r f).i = s.i := rfl
@[simp] theorem writeResult_pc (s : State) (x : Reg) (r : Byte) (f : Bool) : (s.writeResult x r f).pc = s.pc := rfl
@[simp] theorem writeResult_sp (s : State) (x : Reg) (r : Byte) (f : Bool) : (s.writeResult x r f).sp = s.sp := rfl
@[simp] theorem writeResult_stack (s : State) (x : Reg) (r : Byte) (f : Bool) : (s.writeResult x r f).stack = s.stack := rfl
@[simp] theorem writeResult_dt (s : State) (x : Reg) (r : Byte) (f : Bool) : (s.writeResult x r f).dt = s.dt := rfl
@[simp] theorem writeResult_st (s : State) (x : Reg) (r : Byte) (f : Bool) : (s.writeResult x r f).st = s.st := rfl
@[simp] theorem writeResult_mem (s : State) (x : Reg) (r : Byte) (f : Bool) : (s.writeResult x r f).mem = s.mem := rfl
@[simp] theorem writeResult_fb (s : State) (x : Reg) (r : Byte) (f : Bool) : (s.writeResult x r f).fb = s.fb := rfl
@[simp] theorem writeResult_keys (s : State) (x : Reg) (r : Byte) (f : Bool) : (s.writeResult x r f).keys = s.keys := rfl
@[simp] theorem writeResult_fault (s : State) (x : Reg) (r : Byte) (f : Bool) : (s.writeResult x r f).fault = s.fault := rfl
@[simp] theorem writeResult_draws (s : State) (x : Reg) (r : Byte) (f : Bool) : (s.writeResult x r f).draws = s.draws := rfl

/-! ### `skipIf` -/

@[simp] theorem skipIf_v (s : State) (c : Bool) : (s.skipIf c).v = s.v := by cases c <;> rfl
@[simp] theorem skipIf_i (s : State) (c : Bool) : (s.skipIf c).i = s.i := by cases c <;> rfl
@[simp] theorem skipIf_pc (s : State) (c : Bool) : (s.skipIf c).pc = if c then s.pc + 2#16 else s.pc := by cases c <;> rfl
@[simp] theorem skipIf_sp (s : State) (c : Bool) : (s.skipIf c).sp = s.sp := by cases c <;> rfl
@[simp] theorem skipIf_stack (s : State) (c : Bool) : (s.skipIf c).stack = s.stack := by cases c <;> rfl
@[simp] theorem skipIf_dt (s : State) (c : Bool) : (s.skipIf c).dt = s.dt := by cases c <;> rfl
@[simp] theorem skipIf_st (s : State) (c : Bool) : (s.skipIf c).st = s.st := by cases c <;> rfl
@[simp] theorem skipIf_mem (s : State) (c : Bool) : (s.skipIf c).mem = s.mem := by cases c <;> rfl
@[simp] theorem skipIf_fb (s : State) (c : Bool) : (s.skipIf c).fb = s.fb := by cases c <;> rfl
@[simp] theorem skipIf_keys (s : State) (c : Bool) : (s.skipIf c).keys = s.keys := by cases c <;> rfl
@[simp] theorem skipIf_fault (s : State) (c : Bool) : (s.skipIf c).fault = s.fault := by cases c <;> rfl
@[simp] theorem skipIf_draws (s : State) (c : Bool) : (s.skipIf c).draws = s.draws := by cases c <;> rfl

/-! ### `writeByte` -/

@[simp] theorem writeByte_v (s : State) (a : Addr) (b : Byte) : (s.writeByte a b).v = s.v := rfl
@[simp] theorem writeByte_i (s : State) (a : Addr) (b : Byte) : (s.writeByte a b).i = s.i := rfl
@[simp] theorem writeByte_pc (s : State) (a : Addr) (b : Byte) : (s.writeByte a b).pc = s.pc := rfl
@[simp] theorem writeByte_sp (s : State) (a : Addr) (b : Byte) : (s.writeByte a b).sp = s.sp := rfl
@[simp] theorem writeByte_stack (s : State) (a : Addr) (b : Byte) : (s.writeByte a b).stack = s.stack := rfl
@[simp] theorem writeByte_dt (s : State) (a : Addr) (b : Byte) : (s.writeByte a b).dt = s.dt := rfl
@[simp] theorem writeByte_st (s : State) (a : Addr) (b : Byte) : (s.writeByte a b).st = s.st := rfl
@[simp] theorem writeByte_mem (s : State) (a : Addr) (b : Byte) : (s.writeByte a b).mem = s.mem.write a.toNat b := rfl
@[simp] theorem writeByte_fb (s : State) (a : Addr) (b : Byte) : (s.writeByte a b).fb = s.fb := rfl
@[simp] theorem writeByte_keys (s : State) (a : Addr) (b : Byte) : (s.writeByte a b).keys = s.keys := rfl
@[simp] theorem writeByte_fault (s : State) (a : Addr) (b : Byte) : (s.writeByte a b).fault = s.fault := rfl
@[simp] theorem writeByte_draws (s : State) (a : Addr) (b : Byte) : (s.writeByte a b).draws = s.draws := rfl

/-! ### `push` -/

@[simp] theorem push_v (s : State) (t : Word) : (s.push t).v = s.v := rfl
@[simp] theorem push_i (s : State) (t : Word) : (s.push t).i = s.i := rfl
@[simp] theorem push_pc (s : State) (t : Word) : (s.push t).pc = s.pc := rfl
@[simp] theorem push_sp (s : State) (t : Word) : (s.push t).sp = Fin.ofNat 17 (s.sp.val + 1) := rfl
@[simp] theorem push_stack (s : State) (t : Word) : (s.push t).stack = s.stack.setIfInBounds s.sp.val t := rfl
@[simp] theorem push_dt (s : State) (t : Word) : (s.push t).dt = s.dt := rfl
@[simp] theorem push_st (s : State) (t : Word) : (s.push t).st = s.st := rfl
@[simp] theorem push_mem (s : State) (t : Word) : (s.push t).mem = s.mem := rfl
@[simp] theorem push_fb (s : State) (t : Word) : (s.push t).fb = s.fb := rfl
@[simp] theorem push_keys (s : State) (t : Word) : (s.push t).keys = s.keys := rfl
@[simp] theorem push_fault (s : State) (t : Word) : (s.push t).fault = s.fault := rfl
@[simp] theorem push_draws (s : State) (t : Word) : (s.push t).draws = s.draws := rfl

/-! ### `pop` -/

@[simp] theorem pop_v (s : State) : s.pop.v = s.v := rfl
@[simp] theorem pop_i (s : State) : s.pop.i = s.i := rfl
@[simp] theorem pop_pc (s : State) : s.pop.pc = s.pc := rfl
@[simp] theorem pop_sp (s : State) : s.pop.sp = Fin.ofNat 17 (s.sp.val - 1) := rfl
@[simp] theorem pop_stack (s : State) : s.pop.stack = s.stack := rfl
@[simp] theorem pop_dt (s : State) : s.pop.dt = s.dt := rfl
@[simp] theorem pop_st (s : State) : s.pop.st = s.st := rfl
@[simp] theorem pop_mem (s : State) : s.pop.mem = s.mem := rfl
@[simp] theorem pop_fb (s : State) : s.pop.fb = s.fb := rfl
@[simp] theorem pop_keys (s : State) : s.pop.keys = s.keys := rfl
@[simp] theorem pop_fault (s : State) : s.pop.fault = s.fault := rfl
@[simp] theorem pop_draws (s : State) : s.pop.draws = s.draws := rfl

/-! ### `countDraw` -/

@[simp] theorem countDraw_v (s : State) : s.countDraw.v = s.v := rfl
@[simp] theorem countDraw_i (s : State) : s.countDraw.i = s.i := rfl
@[simp] theorem countDraw_pc (s : State) : s.countDraw.pc = s.pc := rfl
@[simp] theorem countDraw_sp (s : State) : s.countDraw.sp = s.sp := rfl
@[simp] theorem countDraw_stack (s : State) : s.countDraw.stack = s.stack := rfl
@[simp] theorem countDraw_dt (s : State) : s.countDraw.dt = s.dt := rfl
@[simp] theorem countDraw_st (s : State) : s.countDraw.st = s.st := rfl
@[simp] theorem countDraw_mem (s : State) : s.countDraw.mem = s.mem := rfl
@[simp] theorem countDraw_fb (s : State) : s.countDraw.fb = s.fb := rfl
@[simp] theorem countDraw_keys (s : State) : s.countDraw.keys = s.keys := rfl
@[simp] theorem countDraw_fault (s : State) : s.countDraw.fault = s.fault := rfl
@[simp] theorem countDraw_draws (s : State) : s.countDraw.draws = s.draws + 1 := rfl

/-! ### `tick` -/

@[simp] theorem tick_v (s : State) : s.tick.v = s.v := rfl
@[simp] theorem tick_i (s : State) : s.tick.i = s.i := rfl
@[simp] theorem tick_pc (s : State) : s.tick.pc = s.pc := rfl
@[simp] theorem tick_sp (s : State) : s.tick.sp = s.sp := rfl
@[simp] theorem tick_stack (s : State) : s.tick.stack = s.stack := rfl
@[simp] theorem tick_dt (s : State) : s.tick.dt = countDown s.dt := rfl
@[simp] theorem tick_st (s : State) : s.tick.st = countDown s.st := rfl
@[simp] theorem tick_mem (s : State) : s.tick.mem = s.mem := rfl
@[simp] theorem tick_fb (s : State) : s.tick.fb = s.fb := rfl
@[simp] theorem tick_keys (s : State) : s.tick.keys = s.keys := rfl
@[simp] theorem tick_fault (s : State) : s.tick.fault = s.fault := rfl
@[simp] theorem tick_draws (s : State) : s.tick.draws = s.draws := rfl

/-! ### `takeFault` -/

@[simp] theorem takeFault_v (s : State) (p : Word) (c : FaultCause) (w a : Word) : (s.takeFault p c w a).v = s.v := rfl
@[simp] theorem takeFault_i (s : State) (p : Word) (c : FaultCause) (w a : Word) : (s.takeFault p c w a).i = s.i := rfl
@[simp] theorem takeFault_pc (s : State) (p : Word) (c : FaultCause) (w a : Word) : (s.takeFault p c w a).pc = p := rfl
@[simp] theorem takeFault_sp (s : State) (p : Word) (c : FaultCause) (w a : Word) : (s.takeFault p c w a).sp = s.sp := rfl
@[simp] theorem takeFault_stack (s : State) (p : Word) (c : FaultCause) (w a : Word) : (s.takeFault p c w a).stack = s.stack := rfl
@[simp] theorem takeFault_dt (s : State) (p : Word) (c : FaultCause) (w a : Word) : (s.takeFault p c w a).dt = s.dt := rfl
@[simp] theorem takeFault_st (s : State) (p : Word) (c : FaultCause) (w a : Word) : (s.takeFault p c w a).st = s.st := rfl
@[simp] theorem takeFault_mem (s : State) (p : Word) (c : FaultCause) (w a : Word) : (s.takeFault p c w a).mem = s.mem := rfl
@[simp] theorem takeFault_fb (s : State) (p : Word) (c : FaultCause) (w a : Word) : (s.takeFault p c w a).fb = s.fb := rfl
@[simp] theorem takeFault_keys (s : State) (p : Word) (c : FaultCause) (w a : Word) : (s.takeFault p c w a).keys = s.keys := rfl
@[simp] theorem takeFault_fault (s : State) (p : Word) (c : FaultCause) (w a : Word) : (s.takeFault p c w a).fault = ⟨c, p, w, a, s.sp⟩ := rfl
@[simp] theorem takeFault_draws (s : State) (p : Word) (c : FaultCause) (w a : Word) : (s.takeFault p c w a).draws = s.draws := rfl

/-! ### `raiseAt` -/

@[simp] theorem raiseAt_v (s : State) (c : FaultCause) (j : Instr) (a : Word) : (s.raiseAt c j a).v = s.v := rfl
@[simp] theorem raiseAt_i (s : State) (c : FaultCause) (j : Instr) (a : Word) : (s.raiseAt c j a).i = s.i := rfl
@[simp] theorem raiseAt_pc (s : State) (c : FaultCause) (j : Instr) (a : Word) : (s.raiseAt c j a).pc = s.pc - 2#16 := rfl
@[simp] theorem raiseAt_sp (s : State) (c : FaultCause) (j : Instr) (a : Word) : (s.raiseAt c j a).sp = s.sp := rfl
@[simp] theorem raiseAt_stack (s : State) (c : FaultCause) (j : Instr) (a : Word) : (s.raiseAt c j a).stack = s.stack := rfl
@[simp] theorem raiseAt_dt (s : State) (c : FaultCause) (j : Instr) (a : Word) : (s.raiseAt c j a).dt = s.dt := rfl
@[simp] theorem raiseAt_st (s : State) (c : FaultCause) (j : Instr) (a : Word) : (s.raiseAt c j a).st = s.st := rfl
@[simp] theorem raiseAt_mem (s : State) (c : FaultCause) (j : Instr) (a : Word) : (s.raiseAt c j a).mem = s.mem := rfl
@[simp] theorem raiseAt_fb (s : State) (c : FaultCause) (j : Instr) (a : Word) : (s.raiseAt c j a).fb = s.fb := rfl
@[simp] theorem raiseAt_keys (s : State) (c : FaultCause) (j : Instr) (a : Word) : (s.raiseAt c j a).keys = s.keys := rfl
@[simp] theorem raiseAt_fault (s : State) (c : FaultCause) (j : Instr) (a : Word) : (s.raiseAt c j a).fault = ⟨c, s.pc - 2#16, encode j, a, s.sp⟩ := rfl
@[simp] theorem raiseAt_draws (s : State) (c : FaultCause) (j : Instr) (a : Word) : (s.raiseAt c j a).draws = s.draws := rfl

/-! ### `advancePc` -/

@[simp] theorem advancePc_v (s : State) : s.advancePc.v = s.v := rfl
@[simp] theorem advancePc_i (s : State) : s.advancePc.i = s.i := rfl
@[simp] theorem advancePc_pc (s : State) : s.advancePc.pc = s.pc + 2#16 := rfl
@[simp] theorem advancePc_sp (s : State) : s.advancePc.sp = s.sp := rfl
@[simp] theorem advancePc_stack (s : State) : s.advancePc.stack = s.stack := rfl
@[simp] theorem advancePc_dt (s : State) : s.advancePc.dt = s.dt := rfl
@[simp] theorem advancePc_st (s : State) : s.advancePc.st = s.st := rfl
@[simp] theorem advancePc_mem (s : State) : s.advancePc.mem = s.mem := rfl
@[simp] theorem advancePc_fb (s : State) : s.advancePc.fb = s.fb := rfl
@[simp] theorem advancePc_keys (s : State) : s.advancePc.keys = s.keys := rfl
@[simp] theorem advancePc_fault (s : State) : s.advancePc.fault = s.fault := rfl
@[simp] theorem advancePc_draws (s : State) : s.advancePc.draws = s.draws := rfl

/-! ### `keySet` -/

@[simp] theorem keySet_v (s : State) (k : Key) (b : Bool) : (s.keySet k b).v = s.v := rfl
@[simp] theorem keySet_i (s : State) (k : Key) (b : Bool) : (s.keySet k b).i = s.i := rfl
@[simp] theorem keySet_pc (s : State) (k : Key) (b : Bool) : (s.keySet k b).pc = s.pc := rfl
@[simp] theorem keySet_sp (s : State) (k : Key) (b : Bool) : (s.keySet k b).sp = s.sp := rfl
@[simp] theorem keySet_stack (s : State) (k : Key) (b : Bool) : (s.keySet k b).stack = s.stack := rfl
@[simp] theorem keySet_dt (s : State) (k : Key) (b : Bool) : (s.keySet k b).dt = s.dt := rfl
@[simp] theorem keySet_st (s : State) (k : Key) (b : Bool) : (s.keySet k b).st = s.st := rfl
@[simp] theorem keySet_mem (s : State) (k : Key) (b : Bool) : (s.keySet k b).mem = s.mem := rfl
@[simp] theorem keySet_fb (s : State) (k : Key) (b : Bool) : (s.keySet k b).fb = s.fb := rfl
@[simp] theorem keySet_keys (s : State) (k : Key) (b : Bool) : (s.keySet k b).keys = s.keys.set k.val b := rfl
@[simp] theorem keySet_fault (s : State) (k : Key) (b : Bool) : (s.keySet k b).fault = s.fault := rfl
@[simp] theorem keySet_draws (s : State) (k : Key) (b : Bool) : (s.keySet k b).draws = s.draws := rfl

/-! ### `writeBytes`: only memory -/

theorem writeBytes_eq (s : State) (base : Nat) (bs : List Byte) :
    s.writeBytes base bs = { s with mem := (s.writeBytes base bs).mem } := by
  induction bs generalizing s base with
  | nil => rfl
  | cons b bs ih => rw [writeBytes, ih]; rfl


@[simp] theorem writeBytes_v (s : State) (n : Nat) (bs : List Byte) : (s.writeBytes n bs).v = s.v := by
  rw [writeBytes_eq]
@[simp] theorem writeBytes_i (s : State) (n : Nat) (bs : List Byte) : (s.writeBytes n bs).i = s.i := by
  rw [writeBytes_eq]
@[simp] theorem writeBytes_pc (s : State) (n : Nat) (bs : List Byte) : (s.writeBytes n bs).pc = s.pc := by
  rw [writeBytes_eq]
@[simp] theorem writeBytes_sp (s : State) (n : Nat) (bs : List Byte) : (s.writeBytes n bs).sp = s.sp := by
  rw [writeBytes_eq]
@[simp] theorem writeBytes_stack (s : State) (n : Nat) (bs : List Byte) : (s.writeBytes n bs).stack = s.stack := by
  rw [writeBytes_eq]
@[simp] theorem writeBytes_dt (s : State) (n : Nat) (bs : List Byte) : (s.writeBytes n bs).dt = s.dt := by
  rw [writeBytes_eq]
@[simp] theorem writeBytes_st (s : State) (n : Nat) (bs : List Byte) : (s.writeBytes n bs).st = s.st := by
  rw [writeBytes_eq]
@[simp] theorem writeBytes_fb (s : State) (n : Nat) (bs : List Byte) : (s.writeBytes n bs).fb = s.fb := by
  rw [writeBytes_eq]
@[simp] theorem writeBytes_keys (s : State) (n : Nat) (bs : List Byte) : (s.writeBytes n bs).keys = s.keys := by
  rw [writeBytes_eq]
@[simp] theorem writeBytes_fault (s : State) (n : Nat) (bs : List Byte) : (s.writeBytes n bs).fault = s.fault := by
  rw [writeBytes_eq]
@[simp] theorem writeBytes_draws (s : State) (n : Nat) (bs : List Byte) : (s.writeBytes n bs).draws = s.draws := by
  rw [writeBytes_eq]

/-! ### Reads after writes -/

@[simp] theorem getV_setV_same (s : State) (x : Reg) (b : Byte) : (s.setV x b).getV x = b := by
  simp [getV]

theorem getV_setV (s : State) (x y : Reg) (b : Byte) : (s.setV x b).getV y = if y = x then b else s.getV y := by
  by_cases h : y = x
  · subst h; simp
  · have : x.val ≠ y.val := fun e => h (Fin.ext e.symm)
    simp [getV, Vector.getElem_set_ne _ _ this, h]

theorem getV_setV_ne (s : State) (x y : Reg) (b : Byte) (h : y ≠ x) : (s.setV x b).getV y = s.getV y := by
  rw [getV_setV, if_neg h]

theorem getV_setFlag (s : State) (y : Reg) (f : Bool) :
    (s.setFlag f).getV y = if y = 15 then flagByte f else s.getV y := getV_setV s 15 y _

theorem getV_writeResult (s : State) (x y : Reg) (r : Byte) (f : Bool) :
    (s.writeResult x r f).getV y = if y = 15 then flagByte f else if y = x then r else s.getV y := by
  rw [writeResult, getV_setFlag, getV_setV]

/-- Registers depend on the field `v` alone. -/
theorem getV_congr {s t : State} (h : t.v = s.v) (x : Reg) : t.getV x = s.getV x := by simp [getV, h]

/-- Memory bytes depend on the field `mem` alone. -/
theorem readByte_congr {s t : State} (h : t.mem = s.mem) (a : Addr) : t.readByte a = s.readByte a := by
  simp [readByte, h]

/-- Key levels depend on the field `keys` alone. -/
theorem isPressed_congr {s t : State} (h : t.keys = s.keys) (k : Key) : t.isPressed k = s.isPressed k := by
  simp [isPressed, h]

/-- Being faulted depends on the field `fault` alone. -/
theorem faulted_congr {s t : State} (h : t.fault = s.fault) : t.faulted = s.faulted := by simp [faulted, h]

theorem isPressed_keySet (s : State) (k j : Key) (b : Bool) :
    (s.keySet k b).isPressed j = if j = k then b else s.isPressed j := by
  by_cases h : j = k
  · subst h; simp [isPressed]
  · have : k.val ≠ j.val := fun e => h (Fin.ext e.symm)
    simp [isPressed, Vector.getElem_set_ne _ _ this, h]

end State
end Sys2Proof.Machine
end

