-- ==== Sys2Proof/Laws/Draw.lean ====
section
/-! SUPPORT. The laws of the framebuffer: a pixel read after a write, and what one sprite bit, one sprite row and the
whole blit do to a pixel and to the collision (44_display.md R192). -/

namespace Sys2Proof.Machine
namespace Framebuffer

theorem pixel_setPixel (fb : Framebuffer) (px qx : Fin 64) (py qy : Fin 32) (b : Bool) :
    (fb.setPixel px py b).pixel qx qy = if qx = px ∧ qy = py then b else fb.pixel qx qy := by
  simp only [pixel, setPixel]
  by_cases hy : qy = py
  · subst hy
    by_cases hx : qx = px
    · subst hx; simp
    · have : px.val ≠ qx.val := fun e => hx (Fin.ext e.symm)
      simp [Vector.getElem_set_ne _ _ this, hx]
  · have : py.val ≠ qy.val := fun e => hy (Fin.ext e.symm)
    simp [Vector.getElem_set_ne _ _ this, hy]

@[simp] theorem pixel_blank (px : Fin 64) (py : Fin 32) : blank.pixel px py = false := by
  simp [pixel, blank]

/-- Two framebuffers are equal when every pixel is. -/
theorem ext_pixel {fb fc : Framebuffer} (h : ∀ px py, fb.pixel px py = fc.pixel px py) : fb = fc := by
  refine Vector.ext fun y hy => Vector.ext fun x hx => ?_
  exact h ⟨x, hx⟩ ⟨y, hy⟩

/-- The sprite bit is 1 and lands on this pixel. -/
def bitHits (x0 y0 : Byte) (r : Nat) (row : Byte) (c : Nat) (px : Fin 64) (py : Fin 32) : Bool :=
  spriteBit row c && decide (px = column x0 c) && decide (py = line y0 r)

theorem drawBit_pixel (x0 y0 : Byte) (r : Nat) (row : Byte) (acc : Framebuffer × Bool) (c : Nat)
    (px : Fin 64) (py : Fin 32) :
    (drawBit x0 y0 r row acc c).1.pixel px py = (acc.1.pixel px py ^^ bitHits x0 y0 r row c px py) := by
  unfold drawBit bitHits
  cases h : spriteBit row c
  · simp
  · simp only [if_true, pixel_setPixel]
    by_cases hx : px = column x0 c <;> by_cases hy : py = line y0 r <;> simp [hx, hy]

theorem drawBit_collision (x0 y0 : Byte) (r : Nat) (row : Byte) (acc : Framebuffer × Bool) (c : Nat) :
    (drawBit x0 y0 r row acc c).2 =
      (acc.2 || (spriteBit row c && acc.1.pixel (column x0 c) (line y0 r))) := by
  unfold drawBit
  cases h : spriteBit row c <;> simp

/-- A row is drawn bit by bit from the left. -/
theorem drawRow_eq (x0 y0 : Byte) (r : Nat) (row : Byte) (acc : Framebuffer × Bool) :
    drawRow x0 y0 r row acc = (List.range 8).foldl (drawBit x0 y0 r row) acc := rfl

@[simp] theorem draw_nil (fb : Framebuffer) (x0 y0 : Byte) : fb.draw x0 y0 [] = (fb, false) := rfl

theorem drawRows_cons (x0 y0 : Byte) (r : Nat) (row : Byte) (rest : List Byte) (acc : Framebuffer × Bool) :
    drawRows x0 y0 r (row :: rest) acc = drawRows x0 y0 (r + 1) rest (drawRow x0 y0 r row acc) := rfl

end Framebuffer
end Sys2Proof.Machine
end

