-- ==== Sys2Proof/Laws/PerInstr.lean ====
section
/-! SUPPORT. Facts about every instruction as syntax, one lemma per constructor of `Instr`. Family `FixedBits`: the
encoder gives each instruction the fixed bits of its own row of the opcode map (30_encoding.md R94). -/

namespace Sys2Proof.Laws

theorem nibble_and_ones (n : Nibble) : n &&& 15#4 = n := BitVec.and_allOnes

theorem byte_and_ones (b : Byte) : b &&& 255#8 = b := BitVec.and_allOnes

theorem formatA_mask (n3 : Nibble) (addr : Addr) : formatA n3 addr &&& 0xF000#16 = n3 ++ 0#12 := by
  rw [formatA, show (0xF000#16 : Word) = (0xF#4 : Nibble) ++ (0#12 : Addr) from rfl, BitVec.and_append]
  simp [nibble_and_ones]

theorem formatXK_mask (n3 : Nibble) (x : Reg) (kk : Byte) : formatXK n3 x kk &&& 0xF000#16 = n3 ++ 0#12 := by
  rw [formatXK, show (0xF000#16 : Word) = (0xF#4 : Nibble) ++ (0#12 : Addr) from rfl, BitVec.and_append]
  simp [nibble_and_ones]

theorem formatX_mask (n3 : Nibble) (x : Reg) (sub : Byte) :
    formatXK n3 x sub &&& 0xF0FF#16 = n3 ++ (0#4 ++ sub) := by
  rw [formatXK, show (0xF0FF#16 : Word) = (0xF#4 : Nibble) ++ ((0#4 : Nibble) ++ (0xFF#8 : Byte)) from rfl,
    BitVec.and_append, BitVec.and_append]
  simp [nibble_and_ones, byte_and_ones]

theorem formatXYN_mask (n3 : Nibble) (x y : Reg) (n : Nibble) : formatXYN n3 x y n &&& 0xF000#16 = n3 ++ 0#12 := by
  rw [formatXYN, show (0xF000#16 : Word) = (0xF#4 : Nibble) ++ (0#12 : Addr) from rfl, BitVec.and_append]
  simp [nibble_and_ones]

theorem formatXY_mask (n3 : Nibble) (x y : Reg) (sub : Nibble) :
    formatXYN n3 x y sub &&& 0xF00F#16 = n3 ++ (0#4 ++ (0#4 ++ sub)) := by
  rw [formatXYN, show (0xF00F#16 : Word) = (0xF#4 : Nibble) ++ ((0#4 : Nibble) ++ ((0#4 : Nibble) ++ (0xF#4 : Nibble))) from rfl,
    BitVec.and_append, BitVec.and_append, BitVec.and_append]
  simp [nibble_and_ones]

namespace FixedBits

/-- Some row of the opcode map has the instruction's number and selects its word. -/
def Statement (i : Instr) : Prop := ∃ r ∈ opcodeRows, r.row = i.row ∧ r.selects (encode i) = true

theorem cls : Statement .cls :=
  ⟨⟨1, 0xFFFF, 0x00E0⟩, by decide, rfl, rfl⟩

theorem ret : Statement .ret :=
  ⟨⟨2, 0xFFFF, 0x00EE⟩, by decide, rfl, rfl⟩

theorem sys (addr : Addr) : Statement (.sys addr) :=
  ⟨⟨3, 0xF000, 0x0000⟩, by decide, rfl, by simp [OpcodeRow.selects, encode, formatA_mask]⟩

theorem jp (addr : Addr) : Statement (.jp addr) :=
  ⟨⟨4, 0xF000, 0x1000⟩, by decide, rfl, by simp [OpcodeRow.selects, encode, formatA_mask]⟩

theorem call (addr : Addr) : Statement (.call addr) :=
  ⟨⟨5, 0xF000, 0x2000⟩, by decide, rfl, by simp [OpcodeRow.selects, encode, formatA_mask]⟩

theorem seImm (x : Reg) (kk : Byte) : Statement (.seImm x kk) :=
  ⟨⟨6, 0xF000, 0x3000⟩, by decide, rfl, by simp [OpcodeRow.selects, encode, formatXK_mask]⟩

theorem sneImm (x : Reg) (kk : Byte) : Statement (.sneImm x kk) :=
  ⟨⟨7, 0xF000, 0x4000⟩, by decide, rfl, by simp [OpcodeRow.selects, encode, formatXK_mask]⟩

theorem seReg (x y : Reg) : Statement (.seReg x y) :=
  ⟨⟨8, 0xF00F, 0x5000⟩, by decide, rfl, by simp [OpcodeRow.selects, encode, formatXY_mask]⟩

theorem ldImm (x : Reg) (kk : Byte) : Statement (.ldImm x kk) :=
  ⟨⟨9, 0xF000, 0x6000⟩, by decide, rfl, by simp [OpcodeRow.selects, encode, formatXK_mask]⟩

theorem addImm (x : Reg) (kk : Byte) : Statement (.addImm x kk) :=
  ⟨⟨10, 0xF000, 0x7000⟩, by decide, rfl, by simp [OpcodeRow.selects, encode, formatXK_mask]⟩

theorem ldReg (x y : Reg) : Statement (.ldReg x y) :=
  ⟨⟨11, 0xF00F, 0x8000⟩, by decide, rfl, by simp [OpcodeRow.selects, encode, formatXY_mask]⟩

theorem orReg (x y : Reg) : Statement (.orReg x y) :=
  ⟨⟨12, 0xF00F, 0x8001⟩, by decide, rfl, by simp [OpcodeRow.selects, encode, formatXY_mask]⟩

theorem andReg (x y : Reg) : Statement (.andReg x y) :=
  ⟨⟨13, 0xF00F, 0x8002⟩, by decide, rfl, by simp [OpcodeRow.selects, encode, formatXY_mask]⟩

theorem xorReg (x y : Reg) : Statement (.xorReg x y) :=
  ⟨⟨14, 0xF00F, 0x8003⟩, by decide, rfl, by simp [OpcodeRow.selects, encode, formatXY_mask]⟩

theorem addReg (x y : Reg) : Statement (.addReg x y) :=
  ⟨⟨15, 0xF00F, 0x8004⟩, by decide, rfl, by simp [OpcodeRow.selects, encode, formatXY_mask]⟩

theorem subReg (x y : Reg) : Statement (.subReg x y) :=
  ⟨⟨16, 0xF00F, 0x8005⟩, by decide, rfl, by simp [OpcodeRow.selects, encode, formatXY_mask]⟩

theorem shr (x y : Reg) : Statement (.shr x y) :=
  ⟨⟨17, 0xF00F, 0x8006⟩, by decide, rfl, by simp [OpcodeRow.selects, encode, formatXY_mask]⟩

theorem subnReg (x y : Reg) : Statement (.subnReg x y) :=
  ⟨⟨18, 0xF00F, 0x8007⟩, by decide, rfl, by simp [OpcodeRow.selects, encode, formatXY_mask]⟩

theorem shl (x y : Reg) : Statement (.shl x y) :=
  ⟨⟨19, 0xF00F, 0x800E⟩, by decide, rfl, by simp [OpcodeRow.selects, encode, formatXY_mask]⟩

theorem sneReg (x y : Reg) : Statement (.sneReg x y) :=
  ⟨⟨20, 0xF00F, 0x9000⟩, by decide, rfl, by simp [OpcodeRow.selects, encode, formatXY_mask]⟩

theorem ldI (addr : Addr) : Statement (.ldI addr) :=
  ⟨⟨21, 0xF000, 0xA000⟩, by decide, rfl, by simp [OpcodeRow.selects, encode, formatA_mask]⟩

theorem jpV0 (addr : Addr) : Statement (.jpV0 addr) :=
  ⟨⟨22, 0xF000, 0xB000⟩, by decide, rfl, by simp [OpcodeRow.selects, encode, formatA_mask]⟩

theorem rnd (x : Reg) (kk : Byte) : Statement (.rnd x kk) :=
  ⟨⟨23, 0xF000, 0xC000⟩, by decide, rfl, by simp [OpcodeRow.selects, encode, formatXK_mask]⟩

theorem drw (x y : Reg) (n : Nibble) : Statement (.drw x y n) :=
  ⟨⟨24, 0xF000, 0xD000⟩, by decide, rfl, by simp [OpcodeRow.selects, encode, formatXYN_mask]⟩

theorem skp (x : Reg) : Statement (.skp x) :=
  ⟨⟨25, 0xF0FF, 0xE09E⟩, by decide, rfl, by simp [OpcodeRow.selects, encode, formatX_mask]⟩

theorem sknp (x : Reg) : Statement (.sknp x) :=
  ⟨⟨26, 0xF0FF, 0xE0A1⟩, by decide, rfl, by simp [OpcodeRow.selects, encode, formatX_mask]⟩

theorem ldVxDt (x : Reg) : Statement (.ldVxDt x) :=
  ⟨⟨27, 0xF0FF, 0xF007⟩, by decide, rfl, by simp [OpcodeRow.selects, encode, formatX_mask]⟩

theorem ldVxKey (x : Reg) : Statement (.ldVxKey x) :=
  ⟨⟨28, 0xF0FF, 0xF00A⟩, by decide, rfl, by simp [OpcodeRow.selects, encode, formatX_mask]⟩

theorem ldDtVx (x : Reg) : Statement (.ldDtVx x) :=
  ⟨⟨29, 0xF0FF, 0xF015⟩, by decide, rfl, by simp [OpcodeRow.selects, encode, formatX_mask]⟩

theorem ldStVx (x : Reg) : Statement (.ldStVx x) :=
  ⟨⟨30, 0xF0FF, 0xF018⟩, by decide, rfl, by simp [OpcodeRow.selects, encode, formatX_mask]⟩

theorem addI (x : Reg) : Statement (.addI x) :=
  ⟨⟨31, 0xF0FF, 0xF01E⟩, by decide, rfl, by simp [OpcodeRow.selects, encode, formatX_mask]⟩

theorem ldFont (x : Reg) : Statement (.ldFont x) :=
  ⟨⟨32, 0xF0FF, 0xF029⟩, by decide, rfl, by simp [OpcodeRow.selects, encode, formatX_mask]⟩

theorem ldBcd (x : Reg) : Statement (.ldBcd x) :=
  ⟨⟨33, 0xF0FF, 0xF033⟩, by decide, rfl, by simp [OpcodeRow.selects, encode, formatX_mask]⟩

theorem storeRegs (x : Reg) : Statement (.storeRegs x) :=
  ⟨⟨34, 0xF0FF, 0xF055⟩, by decide, rfl, by simp [OpcodeRow.selects, encode, formatX_mask]⟩

theorem loadRegs (x : Reg) : Statement (.loadRegs x) :=
  ⟨⟨35, 0xF0FF, 0xF065⟩, by decide, rfl, by simp [OpcodeRow.selects, encode, formatX_mask]⟩

end FixedBits
end Sys2Proof.Laws
end

