-- ==== Sys2Proof/Laws/Encoding.lean ====
section
/-! SUPPORT. The fields of a word written by each format, and the word rebuilt from its fields (30_encoding.md R91,
R92): the small lemmas of the encoder and the field extractors. -/

namespace Sys2Proof

/-- The 4 bits of a register index. -/
abbrev regBits (x : Reg) : Nibble := BitVec.ofFin (w := 4) x

theorem toFin_regBits (x : Reg) : (regBits x).toFin = x := rfl

theorem fieldN3_formatA (n : Nibble) (a : Addr) : fieldN3 (formatA n a) = n := by
  unfold fieldN3 formatA
  apply BitVec.eq_of_getLsbD_eq; intro i hi
  rw [BitVec.getLsbD_extractLsb', BitVec.getLsbD_append]
  simp [hi]

theorem fieldAddr_formatA (n : Nibble) (a : Addr) : fieldAddr (formatA n a) = a := by
  unfold fieldAddr formatA
  apply BitVec.eq_of_getLsbD_eq; intro i hi
  rw [BitVec.getLsbD_extractLsb', BitVec.getLsbD_append]
  simp [hi]

theorem fieldN3_formatXK (n : Nibble) (x : Reg) (k : Byte) : fieldN3 (formatXK n x k) = n := fieldN3_formatA n _

theorem fieldAddr_formatXK (n : Nibble) (x : Reg) (k : Byte) : fieldAddr (formatXK n x k) = regBits x ++ k :=
  fieldAddr_formatA n _

theorem fieldN3_formatXYN (n : Nibble) (x y : Reg) (k : Nibble) : fieldN3 (formatXYN n x y k) = n :=
  fieldN3_formatA n _

theorem fieldX_formatXK (n : Nibble) (x : Reg) (k : Byte) : fieldX (formatXK n x k) = x := by
  have h : (formatXK n x k).extractLsb' 8 4 = regBits x := by
    unfold formatXK
    apply BitVec.eq_of_getLsbD_eq; intro i hi
    rw [BitVec.getLsbD_extractLsb', BitVec.getLsbD_append, BitVec.getLsbD_append]
    have h1 : 8 + i < 12 := by omega
    simp [hi, h1]
  rw [fieldX, h]

theorem fieldKk_formatXK (n : Nibble) (x : Reg) (k : Byte) : fieldKk (formatXK n x k) = k := by
  unfold fieldKk formatXK
  apply BitVec.eq_of_getLsbD_eq; intro i hi
  rw [BitVec.getLsbD_extractLsb', BitVec.getLsbD_append, BitVec.getLsbD_append]
  have h1 : i < 12 := by omega
  simp [hi, h1]

theorem fieldX_formatXYN (n : Nibble) (x y : Reg) (k : Nibble) : fieldX (formatXYN n x y k) = x :=
  fieldX_formatXK n x (regBits y ++ k)

theorem fieldY_formatXYN (n : Nibble) (x y : Reg) (k : Nibble) : fieldY (formatXYN n x y k) = y := by
  have h : (formatXYN n x y k).extractLsb' 4 4 = regBits y := by
    unfold formatXYN
    apply BitVec.eq_of_getLsbD_eq; intro i hi
    rw [BitVec.getLsbD_extractLsb', BitVec.getLsbD_append, BitVec.getLsbD_append, BitVec.getLsbD_append]
    have h1 : 4 + i < 12 := by omega
    have h2 : 4 + i < 8 := by omega
    simp [hi, h1, h2]
  rw [fieldY, h]

theorem fieldN_formatXYN (n : Nibble) (x y : Reg) (k : Nibble) : fieldN (formatXYN n x y k) = k := by
  unfold fieldN formatXYN
  apply BitVec.eq_of_getLsbD_eq; intro i hi
  rw [BitVec.getLsbD_extractLsb', BitVec.getLsbD_append, BitVec.getLsbD_append, BitVec.getLsbD_append]
  have h1 : i < 12 := by omega
  have h2 : i < 8 := by omega
  simp [hi, h1, h2]

theorem formatA_fields (w : Word) : formatA (fieldN3 w) (fieldAddr w) = w := by
  unfold formatA fieldN3 fieldAddr
  apply BitVec.eq_of_getLsbD_eq; intro i hi
  rw [BitVec.getLsbD_append, BitVec.getLsbD_extractLsb', BitVec.getLsbD_extractLsb']
  by_cases h : i < 12
  · simp [h]
  · have h1 : i - 12 < 4 := by omega
    have h2 : 12 + (i - 12) = i := by omega
    simp [h, h1, h2]

theorem formatXK_fields (w : Word) : formatXK (fieldN3 w) (fieldX w) (fieldKk w) = w := by
  have h : regBits (fieldX w) ++ fieldKk w = fieldAddr w := by
    show (w.extractLsb' 8 4 ++ w.extractLsb' 0 8 : BitVec (4 + 8)) = _
    unfold fieldAddr
    apply BitVec.eq_of_getLsbD_eq; intro i hi
    rw [BitVec.getLsbD_append, BitVec.getLsbD_extractLsb', BitVec.getLsbD_extractLsb', BitVec.getLsbD_extractLsb']
    by_cases h : i < 8
    · have : i < 12 := by omega
      simp [h, this]
    · have h1 : i - 8 < 4 := by omega
      have h2 : 8 + (i - 8) = i := by omega
      have h3 : i < 12 := by omega
      simp [h, h1, h2, h3]
  calc formatXK (fieldN3 w) (fieldX w) (fieldKk w) = formatA (fieldN3 w) (regBits (fieldX w) ++ fieldKk w) := rfl
    _ = w := by rw [h, formatA_fields]

theorem formatXYN_fields (w : Word) : formatXYN (fieldN3 w) (fieldX w) (fieldY w) (fieldN w) = w := by
  have h : regBits (fieldY w) ++ fieldN w = fieldKk w := by
    show (w.extractLsb' 4 4 ++ w.extractLsb' 0 4 : BitVec (4 + 4)) = _
    unfold fieldKk
    apply BitVec.eq_of_getLsbD_eq; intro i hi
    rw [BitVec.getLsbD_append, BitVec.getLsbD_extractLsb', BitVec.getLsbD_extractLsb', BitVec.getLsbD_extractLsb']
    by_cases h : i < 4
    · have : i < 8 := by omega
      simp [h, this]
    · have h1 : i - 4 < 4 := by omega
      have h2 : 4 + (i - 4) = i := by omega
      have h3 : i < 8 := by omega
      simp [h, h1, h2, h3]
  calc formatXYN (fieldN3 w) (fieldX w) (fieldY w) (fieldN w)
      = formatXK (fieldN3 w) (fieldX w) (regBits (fieldY w) ++ fieldN w) := rfl
    _ = w := by rw [h, formatXK_fields]

/-! ### The masks of the opcode map read fields -/

theorem append_eq_append {m n : Nat} {a c : BitVec m} {b d : BitVec n} : a ++ b = c ++ d ↔ a = c ∧ b = d := by
  constructor
  · intro h
    constructor
    · simpa [BitVec.extractLsb'_append_eq_left] using congrArg (BitVec.extractLsb' n m) h
    · simpa [BitVec.extractLsb'_append_eq_right] using congrArg (BitVec.extractLsb' 0 n) h
  · rintro ⟨rfl, rfl⟩; rfl

/-- Mask `F000` leaves the leading nibble. -/
theorem mask_n3 (w : Word) (c : Nibble) : w &&& 0xF000#16 = c ++ 0#12 ↔ fieldN3 w = c := by
  conv_lhs => rw [← formatA_fields w, Laws.formatA_mask]
  rw [append_eq_append]; simp

/-- Mask `F00F` leaves the leading and the last nibble. -/
theorem mask_n3_n (w : Word) (c d : Nibble) :
    w &&& 0xF00F#16 = c ++ (0#4 ++ (0#4 ++ d)) ↔ fieldN3 w = c ∧ fieldN w = d := by
  conv_lhs => rw [← formatXYN_fields w, Laws.formatXY_mask]
  rw [append_eq_append, append_eq_append, append_eq_append]; simp

/-- Mask `F0FF` leaves the leading nibble and the low byte. -/
theorem mask_n3_kk (w : Word) (c : Nibble) (d : Byte) :
    w &&& 0xF0FF#16 = c ++ (0#4 ++ d) ↔ fieldN3 w = c ∧ fieldKk w = d := by
  conv_lhs => rw [← formatXK_fields w, Laws.formatX_mask]
  rw [append_eq_append, append_eq_append]; simp

end Sys2Proof
end

