-- ==== Sys2Proof/Laws/Memory.lean ====
section
/-! SUPPORT. The laws of `MEM`: a byte read after a write, and that every memory operation keeps the canonical form. -/

namespace Sys2Proof.Machine
namespace Memory

theorem read_without (m : Memory) (a b : Nat) :
    read (without m a) b = if b = a then resetByte a else read m b := by
  induction m with
  | nil => by_cases h : b = a <;> simp [without, read, h]
  | cons c m ih =>
    obtain ⟨k, v⟩ := c
    simp only [without, List.filter_cons] at ih ⊢
    by_cases hk : k = a
    · subst hk
      by_cases hb : b = k <;> simp_all [read]
    · by_cases hb : b = k
      · subst hb; simp [read, hk]
      · simp [read, hk, hb, ih]

theorem read_insertCell (c : Host.Cell) (m : Memory) (b : Nat) (h : ∀ d ∈ m, d.1 ≠ c.1) :
    read (insertCell c m) b = if b = c.1 then c.2 else read m b := by
  induction m with
  | nil => rfl
  | cons d m ih =>
    simp only [insertCell]
    split
    · rfl
    · have hd : d.1 ≠ c.1 := h d (by simp)
      have := ih fun e he => h e (by simp [he])
      simp only [read, this]
      by_cases hb : b = d.1
      · simp [hb, hd]
      · simp [hb]

theorem not_mem_without (m : Memory) (a : Nat) : ∀ d ∈ without m a, d.1 ≠ a := by
  intro d hd
  simpa [without] using (List.mem_filter.1 hd).2

/-- What `write` does to every read (20_memory.md R61, R62). -/
theorem read_write (m : Memory) (a b : Nat) (v : Byte) :
    read (write m a v) b = if b = a then v else read m b := by
  unfold write
  split
  · rename_i h; rw [read_without, h]
  · rw [read_insertCell _ _ _ (not_mem_without m a), read_without]
    by_cases hb : b = a <;> simp [hb]

theorem mem_insertCell (c : Host.Cell) (m : Memory) (d : Host.Cell) : d ∈ insertCell c m ↔ d = c ∨ d ∈ m := by
  induction m with
  | nil => simp [insertCell]
  | cons e m ih =>
    simp only [insertCell]
    split
    · simp
    · simp only [List.mem_cons, ih]; tauto

theorem pairwise_insertCell (c : Host.Cell) (m : Memory) (hm : m.Pairwise fun c d => c.1 < d.1)
    (h : ∀ d ∈ m, d.1 ≠ c.1) : (insertCell c m).Pairwise fun c d => c.1 < d.1 := by
  induction m with
  | nil => simp [insertCell]
  | cons e m ih =>
    obtain ⟨he, hm⟩ := List.pairwise_cons.1 hm
    simp only [insertCell]
    split
    · rename_i hlt
      refine List.pairwise_cons.2 ⟨fun d hd => ?_, List.pairwise_cons.2 ⟨he, hm⟩⟩
      rcases List.mem_cons.1 hd with rfl | hd
      · exact hlt
      · exact hlt.trans (he d hd)
    · rename_i hlt
      have hne : e.1 ≠ c.1 := h e (by simp)
      refine List.pairwise_cons.2 ⟨fun d hd => ?_, ih hm fun d hd => h d (by simp [hd])⟩
      rcases (mem_insertCell c m d).1 hd with rfl | hd
      · omega
      · exact he d hd

theorem without_wf {m : Memory} (h : wf m) (a : Nat) : wf (without m a) :=
  ⟨h.1.filter _, fun c hc => h.2 c (List.mem_filter.1 hc).1⟩

/-- Every write keeps the canonical form. -/
theorem write_wf {m : Memory} (h : wf m) {a : Nat} (ha : a < Config.memSize) (v : Byte) : wf (write m a v) := by
  unfold write
  split
  · exact without_wf h a
  · rename_i hv
    have hw := without_wf h a
    refine ⟨pairwise_insertCell _ _ hw.1 (not_mem_without m a), fun c hc => ?_⟩
    rcases (mem_insertCell _ _ _).1 hc with rfl | hc
    · exact ⟨ha, hv⟩
    · exact hw.2 c hc

theorem reset_wf : wf State.reset.mem := ⟨List.Pairwise.nil, by simp [State.reset]⟩

end Memory

namespace State

theorem readByte_writeByte (s : State) (a b : Addr) (v : Byte) :
    (s.writeByte a v).readByte b = if b = a then v else s.readByte b := by
  simp only [readByte, writeByte_mem, Memory.read_write]
  by_cases h : b = a
  · simp [h]
  · have : b.toNat ≠ a.toNat := fun e => h (BitVec.eq_of_toNat_eq e)
    simp [h, this]

theorem writeByte_wf {s : State} (h : s.mem.wf) (a : Addr) (v : Byte) : (s.writeByte a v).mem.wf :=
  Memory.write_wf h (by simpa [Config.memSize] using a.isLt) v

theorem writeBytes_wf {s : State} (h : s.mem.wf) (base : Nat) (bs : List Byte) : (s.writeBytes base bs).mem.wf := by
  induction bs generalizing s base with
  | nil => exact h
  | cons b bs ih => exact ih (writeByte_wf h _ b) (base + 1)

/-- What storing consecutive bytes does to every read (20_memory.md R64), for bytes that all lie in memory. -/
theorem readByte_writeBytes (s : State) (base : Nat) (bs : List Byte) (h : base + bs.length ≤ 4096) (a : Addr) :
    (s.writeBytes base bs).readByte a = if base ≤ a.toNat then bs.getD (a.toNat - base) (s.readByte a) else s.readByte a := by
  induction bs generalizing s base with
  | nil => simp [writeBytes]
  | cons b bs ih =>
    simp only [List.length_cons] at h
    rw [writeBytes, ih _ _ (by omega), readByte_writeByte]
    have hb : a = BitVec.ofNat 12 base ↔ a.toNat = base := by
      constructor
      · rintro rfl; simp; omega
      · intro e; apply BitVec.eq_of_toNat_eq; simp; omega
    rcases lt_trichotomy a.toNat base with hlt | heq | hgt
    · have h1 : ¬ base + 1 ≤ a.toNat := by omega
      have h2 : ¬ base ≤ a.toNat := by omega
      have h3 : a ≠ BitVec.ofNat 12 base := fun e => by rw [hb] at e; omega
      simp [h1, h2, h3]
    · have h1 : ¬ base + 1 ≤ a.toNat := by omega
      have h2 : base ≤ a.toNat := by omega
      have h3 := hb.2 heq
      rw [if_neg h1, if_pos h3, if_pos h2, heq]
      simp
    · have h1 : base + 1 ≤ a.toNat := by omega
      have h2 : base ≤ a.toNat := by omega
      have h3 : a ≠ BitVec.ofNat 12 base := fun e => by rw [hb] at e; omega
      obtain ⟨k, hk⟩ : ∃ k, a.toNat - base = k + 1 := ⟨a.toNat - base - 1, by omega⟩
      have hk' : a.toNat - (base + 1) = k := by omega
      simp [h1, h2, h3, hk, hk']

end State
end Sys2Proof.Machine
end

