-- ==== Sys2Proof/Laws/Ops.lean ====
section
/-! SUPPORT. One lemma per shared operation that says once what it can do: the range check, the stack, the keypad
query, the fetch, the end of a cycle, taking a fault. -/

namespace Sys2Proof.Machine

/-- What an access through `I` can end in (20_memory.md R64): its effect, or `MemRange`. -/
theorem withIndexRange_cases {s t effect : State} {i : Instr} {count : Nat}
    (h : withIndexRange s i count effect = .next t) :
    (s.rangeOk count = true ∧ t = effect) ∨
    (s.rangeOk count = false ∧ t = s.raiseAt .memRange i (BitVec.ofNat 16 (s.lastAddress count))) := by
  unfold withIndexRange at h
  cases hr : s.rangeOk count <;> simp [hr] at h <;> simp [h]

theorem withIndexRange_ok {s effect : State} {i : Instr} {count : Nat} (h : s.rangeOk count = true) :
    withIndexRange s i count effect = .next effect := by
  simp [withIndexRange, h]

theorem withIndexRange_fault {s effect : State} {i : Instr} {count : Nat} (h : s.rangeOk count = false) :
    withIndexRange s i count effect = .next (s.raiseAt .memRange i (BitVec.ofNat 16 (s.lastAddress count))) := by
  simp [withIndexRange, h]

theorem finishCycle_next {r : Result} {t : State} (h : finishCycle r = .next t) : ∃ u, r = .next u ∧ t = u.endCycle := by
  cases r with
  | next u => exact ⟨u, rfl, by simpa [finishCycle] using h.symm⟩
  | fault r => simp [finishCycle] at h
  | refused r => simp [finishCycle] at h

/-- What a command of the host can do (10_state.md R54): one case a command, `Load` with a case for a ROM that does not
fit. -/
theorem perform_cases {c : Command} {s t : State} {reply : Reply} (h : perform c s = .next (t, reply)) :
    (c = .reset ∧ t = s.resetAgain ∧ reply = .done) ∨
    (∃ bytes, c = .load bytes ∧ State.romFits bytes = true ∧ t = s.loadRom bytes ∧ reply = .done) ∨
    (∃ bytes, c = .load bytes ∧ State.romFits bytes = false ∧ t = s ∧ reply = .loadError) ∨
    (∃ k b, c = .keySet k b ∧ t = s.keySet k b ∧ reply = .done) ∨
    (c = .cycle ∧ step s = .next t ∧ reply = t.cycleReply) := by
  cases c with
  | reset => cases h; exact .inl ⟨rfl, rfl, rfl⟩
  | load bytes =>
    cases hf : State.romFits bytes <;> simp only [perform, hf] at h <;> cases h
    · exact .inr (.inr (.inl ⟨bytes, rfl, hf, rfl, rfl⟩))
    · exact .inr (.inl ⟨bytes, rfl, hf, rfl, rfl⟩)
  | keySet k b => cases h; exact .inr (.inr (.inr (.inl ⟨k, b, rfl, rfl, rfl⟩)))
  | cycle =>
    simp only [perform] at h
    cases hs : step s with
    | next u => rw [hs] at h; cases h; exact .inr (.inr (.inr (.inr ⟨rfl, rfl, rfl⟩)))
    | fault r => rw [hs] at h; cases h
    | refused r => rw [hs] at h; cases h

/-- The block load may write the registers up to its operand (43_index_memory.md R175). -/
@[simp] theorem mem_writtenRegisters_loadRegs (x k : Reg) : k ∈ writtenRegisters (.loadRegs x) ↔ k ≤ x := by
  simp [writtenRegisters]

namespace State

theorem indexBase_lt (s : State) : s.indexBase < 4096 := (s.i.extractLsb' 0 12).isLt

theorem rangeOk_iff (s : State) (count : Nat) :
    s.rangeOk count = true ↔ count = 0 ∨ s.indexBase + count ≤ 4096 := by
  have h : s.rangeOk count = (count == 0 || decide (s.indexBase + count - 1 ≤ 0xFFF)) := rfl
  rw [h, Bool.or_eq_true, beq_iff_eq, decide_eq_true_iff]
  omega

@[simp] theorem faulted_clear {s : State} (h : s.fault = FaultRecord.clear) : s.faulted = false := by
  simp [faulted, h, FaultRecord.clear]

theorem faulted_iff (s : State) : s.faulted = true ↔ s.fault.cause ≠ .none := by simp [faulted]

/-- Taking a fault leaves the machine faulted, for every cause but `none`. -/
theorem raiseAt_faulted (s : State) {c : FaultCause} (h : c ≠ .none) (i : Instr) (a : Word) :
    (s.raiseAt c i a).faulted = true := by simp [faulted, h]

theorem push_sp_val {s : State} (h : s.sp.val ≠ 16) (t : Word) : (s.push t).sp.val = s.sp.val + 1 := by
  have := s.sp.isLt
  rw [push_sp, Fin.val_ofNat]; omega

theorem pop_sp_val (s : State) : s.pop.sp.val = s.sp.val - 1 := by
  have := s.sp.isLt
  rw [pop_sp, Fin.val_ofNat]; omega

theorem stack_push (s : State) (t : Word) (k : Fin 16) :
    (s.push t).stack[k.val] = if k.val = s.sp.val then t else s.stack[k.val] := by
  have := s.sp.isLt
  simp only [push_stack]
  rw [Vector.getElem_setIfInBounds]
  simp [eq_comm]

theorem fetchWord_isSome (s : State) : s.fetchWord.isSome ↔ s.pc.toNat ≤ 0xFFE := by
  unfold fetchWord; split <;> simp_all

theorem endCycle_of_faulted {s : State} (h : s.faulted = true) : s.endCycle = s := by simp [endCycle, h]

theorem endCycle_of_not_faulted {s : State} (h : s.faulted = false) : s.endCycle = s.tick := by simp [endCycle, h]

/-- "decrement by at most 1 per cycle, floor at 0" (10_state.md R40). -/
theorem countDown_toNat (b : Byte) : (countDown b).toNat = b.toNat - 1 := by
  unfold countDown
  split
  · rename_i h; simp [h]
  · rename_i h
    have : b.toNat ≠ 0 := fun e => h (BitVec.eq_of_toNat_eq (by simpa using e))
    have := b.isLt
    simp only [BitVec.toNat_sub, BitVec.toNat_ofNat]
    omega

theorem lowestPressed_none {s : State} : s.lowestPressed = none ↔ ∀ k, s.isPressed k = false := by
  simp [lowestPressed]

/-- The lowest-indexed pressed key is pressed. -/
theorem isPressed_of_lowestPressed {s : State} {k : Key} (h : s.lowestPressed = some k) : s.isPressed k = true := by
  exact List.find?_some h

end State
end Sys2Proof.Machine
end

