-- ==== Sys2Proof/Tests/Slice0.lean ====
section
/-! SUPPORT. The model's own tests, and a witness for the hypotheses of every statement. Expected values come from
95_test_vectors.md (the vector's number stands above each test) or from the rule named there; every test is one cycle on
a small state. -/

namespace Sys2Proof.Tests

open Sys2Proof.Machine

/-! ### Helpers -/

/-- The reset state with the word `w` at 0x200, the convention of part 2 of 95_test_vectors.md. -/
def vec (w : Nat) : State := State.reset.withFetchWord 16 w

/-- The state after one `Cycle`; the state itself where the cycle answered no next state. -/
def after (s : State) : State :=
  match step s with
  | .next t => t
  | .fault _ => s
  | .refused _ => s

/-- The outcome is a next state. -/
def isNext (r : Result) : Bool :=
  match r with
  | .next _ => true
  | .fault _ => false
  | .refused _ => false

theorem step_after {s : State} (h : isNext (step s) = true) : step s = .next (after s) := by
  unfold after
  cases hs : step s with
  | next t => rfl
  | fault r => rw [hs] at h; cases h
  | refused r => rw [hs] at h; cases h

/-! ### Well-formedness: a smoke test for each check -/

-- 30_encoding.md R97: 0x00E0 is CLS.
theorem test_wf_refuses_sys_of_cls :
    (Instr.sys 0x0E0).wellFormed = false := rfl

-- 30_encoding.md R97: 0x00EE is RET.
theorem test_wf_refuses_sys_of_ret :
    (Instr.sys 0x0EE).wellFormed = false := rfl

-- V30-3.
theorem test_wf_accepts_sys :
    (Instr.sys 0x0E1).wellFormed = true := rfl

-- 00_scope.md R10: the constraint on the parameters.
theorem test_config_valid :
    hardware.valid = true := by decide

/-! ### Decoding: one written-out word for every instruction (30_encoding.md R94) -/

theorem test_decode_cls : decode 0b0000000011100000#16 = .ok .cls := by decide -- V30-1
theorem test_decode_ret : decode 0b0000000011101110#16 = .ok .ret := by decide -- V30-2
theorem test_decode_sys : decode 0b0000111111111111#16 = .ok (.sys 0xFFF) := by decide -- V30-5
theorem test_decode_jp : decode 0b0001001000110100#16 = .ok (.jp 0x234) := by decide -- V30-6
theorem test_decode_call : decode 0b0010101010111100#16 = .ok (.call 0xABC) := by decide -- row 5
theorem test_decode_se_imm : decode 0b0011000100000101#16 = .ok (.seImm 1 0x05) := by decide -- row 6
theorem test_decode_sne_imm : decode 0b0100000100000101#16 = .ok (.sneImm 1 0x05) := by decide -- row 7
theorem test_decode_se_reg : decode 0b0101000100100000#16 = .ok (.seReg 1 2) := by decide -- V30-7
theorem test_decode_ld_imm : decode 0b0110000110101010#16 = .ok (.ldImm 1 0xAA) := by decide -- row 9
theorem test_decode_add_imm : decode 0b0111111111111111#16 = .ok (.addImm 15 0xFF) := by decide -- V30-21
theorem test_decode_ld_reg : decode 0b1000000100100000#16 = .ok (.ldReg 1 2) := by decide -- row 11
theorem test_decode_or : decode 0b1000000100100001#16 = .ok (.orReg 1 2) := by decide -- row 12
theorem test_decode_and : decode 0b1000000100100010#16 = .ok (.andReg 1 2) := by decide -- row 13
theorem test_decode_xor : decode 0b1000000100100011#16 = .ok (.xorReg 1 2) := by decide -- row 14
theorem test_decode_add_reg : decode 0b1000000100100100#16 = .ok (.addReg 1 2) := by decide -- row 15
theorem test_decode_sub : decode 0b1000000100100101#16 = .ok (.subReg 1 2) := by decide -- row 16
theorem test_decode_shr : decode 0b1000000100100110#16 = .ok (.shr 1 2) := by decide -- row 17
theorem test_decode_subn : decode 0b1000000100100111#16 = .ok (.subnReg 1 2) := by decide -- row 18
theorem test_decode_shl : decode 0b1000000100101110#16 = .ok (.shl 1 2) := by decide -- V30-10
theorem test_decode_sne_reg : decode 0b1001000100100000#16 = .ok (.sneReg 1 2) := by decide -- V30-11
theorem test_decode_ld_i : decode 0b1010000100100011#16 = .ok (.ldI 0x123) := by decide -- row 21
theorem test_decode_jp_v0 : decode 0b1011111111111111#16 = .ok (.jpV0 0xFFF) := by decide -- row 22
theorem test_decode_rnd : decode 0b1100000100001111#16 = .ok (.rnd 1 0x0F) := by decide -- row 23
theorem test_decode_drw : decode 0b1101000100100101#16 = .ok (.drw 1 2 5) := by decide -- row 24
theorem test_decode_skp : decode 0b1110000110011110#16 = .ok (.skp 1) := by decide -- V30-13
theorem test_decode_sknp : decode 0b1110000110100001#16 = .ok (.sknp 1) := by decide -- V30-15
theorem test_decode_ld_vx_dt : decode 0b1111000100000111#16 = .ok (.ldVxDt 1) := by decide -- V30-16
theorem test_decode_ld_vx_k : decode 0b1111001000001010#16 = .ok (.ldVxKey 2) := by decide -- row 28
theorem test_decode_ld_dt_vx : decode 0b1111000000010101#16 = .ok (.ldDtVx 0) := by decide -- row 29
theorem test_decode_ld_st_vx : decode 0b1111000000011000#16 = .ok (.ldStVx 0) := by decide -- row 30
theorem test_decode_add_i : decode 0b1111000100011110#16 = .ok (.addI 1) := by decide -- row 31
theorem test_decode_ld_f : decode 0b1111000100101001#16 = .ok (.ldFont 1) := by decide -- row 32
theorem test_decode_ld_b : decode 0b1111000000110011#16 = .ok (.ldBcd 0) := by decide -- row 33
theorem test_decode_store : decode 0b1111001001010101#16 = .ok (.storeRegs 2) := by decide -- row 34
theorem test_decode_load : decode 0b1111111001100101#16 = .ok (.loadRegs 14) := by decide -- V30-19

-- V30-8, V30-9, V30-12, V30-14, V30-17, V30-18.
theorem test_decode_unknown_words :
    [0x5121, 0x8128, 0x912F, 0xE19F, 0xF100, 0xF1FF].all (fun w => (decode (BitVec.ofNat 16 w)).toOption.isNone) = true := by decide

-- 30_encoding.md R90: an instruction is two bytes.
theorem test_decode_truncated :
    decodeBytes [0x12#8] = .error .truncated := rfl

-- V30-6, the host's entry to the decoder.
theorem test_decode_table_word :
    decodeTableWord 16 0x1234 = some (.jp 0x234) := by decide

/-! ### Control flow -/

-- V40-21.
theorem test_sys :
    (fun t : State => t.pc = 0x202 ∧ t = { vec 0x0123 with pc := 0x202 }) (after (vec 0x0123)) := by decide

-- V40-1.
theorem test_jp_self :
    (fun t : State => t.pc = 0x200) (after (vec 0x1200)) := by decide

-- V40-3.
theorem test_jp_odd :
    (fun t : State => t.pc = 0x201) (after (vec 0x1201)) := by decide

-- V40-5.
theorem test_call :
    (fun t : State => t.stack[15] = 0x202 ∧ t.sp = 16 ∧ t.pc = 0x300) (after ({ vec 0x2300 with sp := 15 })) := by decide

-- V40-6.
theorem test_call_overflow :
    (fun t : State => t = { vec 0x2300 with sp := 16, dt := 2, fault := ⟨.stackOverflow, 0x200, 0x2300, 0, 16⟩ }) (after ({ vec 0x2300 with sp := 16, dt := 2 })) := by decide

-- V40-7, with the entry 0x302.
theorem test_ret :
    (fun t : State => t.sp = 0 ∧ t.pc = 0x302 ∧ t.stack[0] = 0x302) (after ({ vec 0x00EE with sp := 1, stack := State.reset.stack.set 0 0x302 })) := by decide

-- V40-8, V46-11.
theorem test_ret_underflow :
    (fun t : State => t = { vec 0x00EE with dt := 2, fault := ⟨.stackUnderflow, 0x200, 0x00EE, 0, 0⟩ }) (after ({ vec 0x00EE with dt := 2 })) := by decide

-- V40-9.
theorem test_se_imm_taken :
    (fun t : State => t.pc = 0x204) (after ((vec 0x3105).setV 1 0x05)) := by decide

-- V40-10.
theorem test_se_imm_not_taken :
    (fun t : State => t.pc = 0x202) (after ((vec 0x3105).setV 1 0x06)) := by decide

-- V40-11.
theorem test_sne_imm_not_taken :
    (fun t : State => t.pc = 0x202) (after ((vec 0x4105).setV 1 0x05)) := by decide

-- V40-12.
theorem test_sne_imm_taken :
    (fun t : State => t.pc = 0x204) (after ((vec 0x4105).setV 1 0x06)) := by decide

-- V40-13.
theorem test_se_reg_taken :
    (fun t : State => t.pc = 0x204) (after (((vec 0x5120).setV 1 0x7F).setV 2 0x7F)) := by decide

-- V40-14.
theorem test_se_reg_not_taken :
    (fun t : State => t.pc = 0x202) (after (((vec 0x5120).setV 1 0x7F).setV 2 0x80)) := by decide

-- V40-16.
theorem test_sne_reg_taken :
    (fun t : State => t.pc = 0x204) (after (((vec 0x9120).setV 1 0x7F).setV 2 0x80)) := by decide

-- V40-17.
theorem test_sne_reg_not_taken :
    (fun t : State => t.pc = 0x202) (after (vec 0x9120)) := by decide

-- V40-19; the register is V0, not V3.
theorem test_jp_v0 :
    (fun t : State => t.pc = 0x310) (after (((vec 0xB300).setV 0 0x10).setV 3 0x99)) := by decide

-- V40-20.
theorem test_jp_v0_unmasked :
    (fun t : State => t.pc = 0x10FE) (after ((vec 0xBFFF).setV 0 0xFF)) := by decide

-- V40-20, its next cycle.
theorem test_fetch_range_at_10fe :
    (fun t : State => t.fault = ⟨.fetchRange, 0x10FE, 0, 0x10FE, 0⟩) (after ((vec 0x0000).setPc 0x10FE)) := by decide

-- V40-2.
theorem test_fetch_range_at_fff :
    (fun t : State => t = { (vec 0x0000).setPc 0xFFF with fault := ⟨.fetchRange, 0xFFF, 0, 0x1000, 0⟩ }) (after ((vec 0x0000).setPc 0xFFF)) := by decide

-- V46-10.
theorem test_unknown_word :
    (fun t : State => t = { vec 0x5121 with dt := 1, pc := 0x202 }) (after ({ vec 0x5121 with dt := 2 })) := by decide

/-! ### Loads, arithmetic and logic -/

-- V41-1.
theorem test_ld_imm :
    (fun t : State => t.getV 1 = 0xAA ∧ t.pc = 0x202) (after (vec 0x61AA)) := by decide

-- V41-2.
theorem test_ld_imm_vf :
    (fun t : State => t.getV 15 = 0x07) (after (vec 0x6F07)) := by decide

-- V41-3.
theorem test_add_imm_wraps :
    (fun t : State => t.getV 1 = 0x01 ∧ t.getV 15 = 1) (after ((vec 0x7103).setV 1 0xFE)) := by decide

-- V41-8.
theorem test_add_imm_vf :
    (fun t : State => t.getV 15 = 1) (after ((vec 0x7F01).setV 15 0xFF)) := by decide

-- V41-10.
theorem test_ld_reg :
    (fun t : State => t.getV 1 = 0x9C ∧ t.getV 15 = 0x33) (after (((vec 0x8120).setV 2 0x9C).setV 15 0x33)) := by decide

-- V41-11.
theorem test_or :
    (fun t : State => t.getV 1 = 0xFF ∧ t.getV 15 = 1) (after ((((vec 0x8121).setV 1 0xF0).setV 2 0x0F).setV 15 1)) := by decide

-- V41-12.
theorem test_and :
    (fun t : State => t.getV 1 = 0x30) (after (((vec 0x8122).setV 1 0xF0).setV 2 0x3C)) := by decide

-- V41-13.
theorem test_xor :
    (fun t : State => t.getV 1 = 0xCC) (after (((vec 0x8123).setV 1 0xF0).setV 2 0x3C)) := by decide

-- V41-15.
theorem test_add_reg_carry :
    (fun t : State => t.getV 1 = 0x00 ∧ t.getV 2 = 0x01 ∧ t.getV 15 = 1) (after (((vec 0x8124).setV 1 0xFF).setV 2 0x01)) := by decide

-- V41-20.
theorem test_add_reg_vf_operand :
    (fun t : State => t.getV 1 = 0x00 ∧ t.getV 15 = 1) (after (((vec 0x81F4).setV 1 0x01).setV 15 0xFF)) := by decide

-- V41-22.
theorem test_sub_borrow :
    (fun t : State => t.getV 1 = 0xFE ∧ t.getV 15 = 0) (after (((vec 0x8125).setV 1 0x03).setV 2 0x05)) := by decide

-- V41-23.
theorem test_sub_equal :
    (fun t : State => t.getV 1 = 0x00 ∧ t.getV 15 = 1) (after (((vec 0x8125).setV 1 0x07).setV 2 0x07)) := by decide

-- V41-26.
theorem test_subn_no_borrow :
    (fun t : State => t.getV 1 = 0x02 ∧ t.getV 15 = 1) (after (((vec 0x8127).setV 1 0x03).setV 2 0x05)) := by decide

-- V41-27.
theorem test_subn_borrow :
    (fun t : State => t.getV 1 = 0xFE ∧ t.getV 15 = 0) (after (((vec 0x8127).setV 1 0x05).setV 2 0x03)) := by decide

/-! ### Shifts and the random byte -/

-- V42-5.
theorem test_shr_ignores_y :
    (fun t : State => t.getV 1 = 0x02 ∧ t.getV 2 = 0xFF ∧ t.getV 15 = 0) (after (((vec 0x8126).setV 1 0x04).setV 2 0xFF)) := by decide

-- V42-6.
theorem test_shr_vf :
    (fun t : State => t.getV 15 = 1) (after ((vec 0x8F06).setV 15 0x03)) := by decide

-- V42-7.
theorem test_shl_flag_is_one :
    (fun t : State => t.getV 1 = 0x02 ∧ t.getV 15 = 1) (after ((vec 0x810E).setV 1 0x81)) := by decide

-- V42-8.
theorem test_shl_no_flag :
    (fun t : State => t.getV 1 = 0x80 ∧ t.getV 15 = 0) (after ((vec 0x810E).setV 1 0x40)) := by decide

/-! ### The index register and memory -/

-- V43-1.
theorem test_ld_i :
    (fun t : State => t.i = 0x0123) (after (vec 0xA123)) := by decide

-- V43-4.
theorem test_add_i_past_fff :
    (fun t : State => t.i = 0x1000 ∧ t.getV 15 = 0) (after (({ vec 0xF11E with i := 0x0FFF }).setV 1 0x01)) := by decide

-- V43-5.
theorem test_add_i_wraps :
    (fun t : State => t.i = 0x0001) (after (({ vec 0xF11E with i := 0xFFFF }).setV 1 0x02)) := by decide

-- V43-6.
theorem test_ld_f :
    (fun t : State => t.i = 0x0032) (after ((vec 0xF129).setV 1 0x0A)) := by decide

-- V43-7.
theorem test_ld_f_low_nibble :
    (fun t : State => t.i = 0x004B) (after ((vec 0xF129).setV 1 0x1F)) := by decide

-- V43-9.
theorem test_ld_b :
    (fun t : State => t.readByte 0x300 = 2 ∧ t.readByte 0x301 = 3 ∧ t.readByte 0x302 = 4 ∧ t.i = 0x300) (after (({ vec 0xF033 with i := 0x300 }).setV 0 0xEA)) := by decide

-- V43-15.
theorem test_ld_b_range :
    (fun t : State => t = { vec 0xF033 with i := 0xFFE, fault := ⟨.memRange, 0x200, 0xF033, 0x1000, 0⟩ }) (after ({ vec 0xF033 with i := 0xFFE })) := by decide

-- V43-21.
theorem test_store_base_is_low_12_bits :
    (fun t : State => t.readByte 0x300 = 0x11 ∧ t.readByte 0x302 = 0x33 ∧ t.readByte 0x303 = 0 ∧ t.i = 0x1300) (after (((({ vec 0xF255 with i := 0x1300 }).setV 0 0x11).setV 1 0x22).setV 2 0x33)) := by decide

-- V43-24.
theorem test_store_is_fetched_next :
    (fun t : State => t.fetchWord = some 0x1200) (after (({ vec 0xF055 with i := 0x202 }).setV 0 0x12)) := by decide

-- V43-23.
theorem test_load_font :
    (fun t : State => t.v.toList = [0xF0, 0x90, 0x90, 0x90, 0xF0, 0x20, 0x60, 0x20, 0x20, 0x70, 0xF0, 0x10, 0xF0, 0x80, 0xF0, 0xF0]) (after (vec 0xFF65)) := by decide

-- The check of V43-19 for FF65 (43_index_memory.md R175).
theorem test_load_range :
    (fun t : State => t.fault = ⟨.memRange, 0x200, 0xFF65, 0x1000, 0⟩ ∧ t.pc = 0x200) (after ({ vec 0xFF65 with i := 0xFF1 })) := by decide

/-! ### The display -/

-- V44-1.
theorem test_drw_glyph_zero :
    (fun t : State => t.getV 15 = 1 ∧ t.fb[0].toList.take 5 = [true, true, true, true, false] ∧ t.fb[1].toList.take 5 = [true, false, false, true, false] ∧ t.fb[5] = State.reset.fb[5]) (after (vec 0xD125)) := by decide

-- V44-6 and V44-13 (origin VF = FF, two bits).
theorem test_drw_wraps_and_reads_old_vf :
    (fun t : State => t.fb.pixel 63 31 = true ∧ t.fb.pixel 0 31 = true ∧ t.getV 15 = 1) (after (((({ vec 0xDFF1 with i := 0x300 }).writeByte 0x300 0xC0).setV 15 0xFF))) := by decide

-- V44-14.
theorem test_cls :
    (fun t : State => t.fb = Framebuffer.blank ∧ t.getV 15 = 0) (after ({ vec 0x00E0 with fb := State.reset.fb.setPixel 63 31 true })) := by decide

/-! ### The keypad -/

-- V45-5.
theorem test_skp_low_nibble :
    (fun t : State => t.pc = 0x204) (after (((vec 0xE19E).setV 1 0x15).keySet 5 true)) := by decide

-- V45-2.
theorem test_skp_not_pressed :
    (fun t : State => t.pc = 0x202) (after ((vec 0xE19E).setV 1 0x05)) := by decide

-- V45-3.
theorem test_sknp_not_pressed :
    (fun t : State => t.pc = 0x204) (after ((vec 0xE1A1).setV 1 0x05)) := by decide

-- V45-4.
theorem test_sknp_pressed :
    (fun t : State => t.pc = 0x202) (after (((vec 0xE1A1).setV 1 0x05).keySet 5 true)) := by decide

-- V45-6, at 0x200.
theorem test_ld_vx_k_polls :
    (fun t : State => t = { vec 0xF20A with dt := 8 }) (after ({ vec 0xF20A with dt := 9 })) := by decide

-- V45-7, at 0x200.
theorem test_ld_vx_k_lowest :
    (fun t : State => t.getV 2 = 0x07 ∧ t.pc = 0x202) (after (((vec 0xF20A).keySet 7 true).keySet 10 true)) := by decide

/-! ### The timers -/

-- V46-1.
theorem test_ld_vx_dt :
    (fun t : State => t.getV 1 = 0x02 ∧ t.dt = 0x01) (after ({ vec 0xF107 with dt := 2 })) := by decide

-- V46-3.
theorem test_ld_dt_vx :
    (fun t : State => t.dt = 0x04) (after ((vec 0xF015).setV 0 0x05)) := by decide

-- V46-5.
theorem test_ld_dt_vx_zero :
    (fun t : State => t.dt = 0x00) (after ({ vec 0xF015 with dt := 9 })) := by decide

-- V46-6.
theorem test_ld_st_vx :
    (fun t : State => t.st = 0x00 ∧ t.tone = false) (after ((vec 0xF018).setV 0 0x01)) := by decide

-- V46-7.
theorem test_ld_st_vx_tone :
    (fun t : State => t.st = 0x01 ∧ t.tone = true) (after ((vec 0xF018).setV 0 0x02)) := by decide

-- V46-8, V46-9.
theorem test_tick_floor :
    (fun t : State => t.dt = 0 ∧ t.st = 0) (after ({ vec 0x6000 with dt := 1, st := 0 })) := by decide

/-! ### Fetching from a placed word, and the random byte -/

-- log 14: a faulted machine past the top still runs the placed word.
theorem test_with_fetch_word_restarts :
    (fun t : State => t.getV 1 = 0xAA ∧ t.pc = 0x202) (after (State.withFetchWord { State.reset with pc := 0x1000, fault := ⟨.fetchRange, 0x1000, 0, 0x1000, 0⟩ } 16 0x61AA)) := by decide

-- V42-12: whatever the draw, the result is 0.
theorem test_rnd_zero_mask :
    (Config.rndIn 0 &&& 0x00#8 = 0x00#8) ∧ exec (.rnd 1 0x00) State.reset = .next (State.reset.countDraw.setV 1 (Config.rndIn 0 &&& 0x00#8)) := ⟨BitVec.and_zero, rfl⟩

-- 42_shift_random.md R163: the draw of this cycle, then the next one.
theorem test_rnd_draws_are_fresh :
    exec (.rnd 1 0xFF) { State.reset with draws := 7 } = .next (State.setV { State.reset with draws := 8 } 1 (Config.rndIn 7 &&& 0xFF#8)) := rfl

/-! ### Host commands -/

-- V70-1.
theorem test_command_reset :
    State.resetAgain { (vec 0x2300).keySet 3 true with sp := 16, draws := 4 } = { State.reset with draws := 4 } := rfl

-- V70-2, V70-3.
theorem test_command_load_limit :
    State.romFits (List.replicate 3584 0#8) = true ∧ State.romFits (List.replicate 3585 0#8) = false := by
  simp only [State.romFits, List.length_replicate]; decide

-- Example X9.
theorem test_command_load :
    (State.reset.loadRom [0x61, 0xAA]).fetchWord = some 0x61AA := by decide

/-! ### Witnesses: concrete states and operands that meet the hypotheses of the statements -/

theorem witness_decode_of_encode :
    Instr.wellFormed (.sys 0x0E1) = true ∧ Instr.wellFormed (.drw 15 15 15) = true := by decide

theorem witness_encode_of_decode :
    decode 0x00E1 = .ok (.sys 0x0E1) ∧ decode 0xFF65 = .ok (.loadRegs 15) := by decide

theorem witness_overlapping_rows :
    (⟨1, 0xFFFF, 0x00E0⟩ : OpcodeRow) ∈ opcodeRows ∧ (⟨3, 0xF000, 0x0000⟩ : OpcodeRow) ∈ opcodeRows ∧
    OpcodeRow.selects ⟨1, 0xFFFF, 0x00E0⟩ 0x00E0 = true ∧ OpcodeRow.selects ⟨3, 0xF000, 0x0000⟩ 0x00E0 = true := by decide

theorem witness_unknown_words :
    [0x5121, 0x8128, 0x912F, 0xE19F, 0xF1FF].all (fun w => match decode (BitVec.ofNat 16 w) with | .ok _ => false | .error _ => true) = true := by decide

theorem witness_cycle_clauses :
    (vec 0x0000).faulted = false ∧ (after ((vec 0x0000).setPc 0xFFF)).faulted = true ∧
    0xFFF ≤ ((vec 0x0000).setPc 0xFFF).pc.toNat ∧ ((vec 0x0000).setPc 0xFFE).pc.toNat ≤ 0xFFE := by decide

theorem witness_cycle_decoded :
    decode 0x1200 = .ok (.jp 0x200) ∧ exec (.jp 0x200) ((vec 0x1200).setPc 0x202) = .next (vec 0x1200) ∧
    (vec 0x1200).fetchWord = some 0x1200 := ⟨by decide, rfl, by decide⟩

theorem witness_unknown_encoding :
    (vec 0x5121).faulted = false ∧ (vec 0x5121).fetchWord = some 0x5121 ∧
    decode 0x5121 = .error (.unknownGroup5 0x5121) := by decide

theorem witness_tick :
    (vec 0xF015).faulted = false ∧ step (vec 0xF015) = .next (after (vec 0xF015)) ∧
    (after (vec 0xF015)).faulted = false := ⟨by decide, step_after (by decide), by decide⟩

theorem witness_tick_faults :
    (vec 0x00EE).faulted = false ∧ step (vec 0x00EE) = .next (after (vec 0x00EE)) ∧
    (after (vec 0x00EE)).faulted = true := ⟨by decide, step_after (by decide), by decide⟩

theorem witness_parked :
    (vec 0x1200).parked := ⟨by decide, rfl, rfl, by decide⟩

theorem witness_faulted :
    (after (vec 0x00EE)).faulted = true := by decide

theorem witness_faulted_at_other_commands :
    (after (vec 0x00EE)).faulted = true ∧ (Command.load [0x12, 0x00]) ≠ .reset ∧
    (Command.load (List.replicate 3585 0#8)) ≠ .reset ∧ (Command.keySet 3 true) ≠ .reset ∧ Command.cycle ≠ .reset := ⟨by decide, nofun, nofun, nofun, nofun⟩

theorem witness_due_stack_overflow :
    State.faulted ({ vec 0x2300 with sp := 16 }) = false ∧ step ({ vec 0x2300 with sp := 16 }) = .next (after ({ vec 0x2300 with sp := 16 })) ∧
    State.dueFault ({ vec 0x2300 with sp := 16 }) = .stackOverflow := ⟨by decide, step_after (by decide), by decide⟩

theorem witness_due_stack_underflow :
    State.faulted (vec 0x00EE) = false ∧ step (vec 0x00EE) = .next (after (vec 0x00EE)) ∧
    State.dueFault (vec 0x00EE) = .stackUnderflow := ⟨by decide, step_after (by decide), by decide⟩

theorem witness_due_mem_range :
    State.faulted ({ vec 0xF055 with i := 0xFFF, dt := 1 }) = false ∧ step ({ vec 0xF055 with i := 0xFFF, dt := 1 }) = .next (after ({ vec 0xF055 with i := 0xFFF, dt := 1 })) ∧
    State.dueFault ({ vec 0xF055 with i := 0xFFF, dt := 1 }) = .none := ⟨by decide, step_after (by decide), by decide⟩

theorem witness_due_mem_range_past :
    State.faulted ({ vec 0xF155 with i := 0xFFF }) = false ∧ step ({ vec 0xF155 with i := 0xFFF }) = .next (after ({ vec 0xF155 with i := 0xFFF })) ∧
    State.dueFault ({ vec 0xF155 with i := 0xFFF }) = .memRange := ⟨by decide, step_after (by decide), by decide⟩

theorem witness_due_fetch_range :
    State.faulted ((vec 0x0000).setPc 0x1000) = false ∧ step ((vec 0x0000).setPc 0x1000) = .next (after ((vec 0x0000).setPc 0x1000)) ∧
    State.dueFault ((vec 0x0000).setPc 0x1000) = .fetchRange := ⟨by decide, step_after (by decide), by decide⟩

theorem witness_fetch_range :
    ((vec 0x0000).setPc 0xFFF).faulted = false ∧ 0xFFF ≤ ((vec 0x0000).setPc 0xFFF).pc.toNat ∧
    ((vec 0x0000).setPc 0x10FE).faulted = false ∧ 0xFFF ≤ ((vec 0x0000).setPc 0x10FE).pc.toNat := by decide

theorem witness_stack_faults :
    State.sp { State.reset with sp := 16 } = 16 ∧ State.reset.sp = 0 := by decide

theorem witness_mem_range_of_each :
    [(Instr.ldBcd 0, 3), (.storeRegs 15, 16), (.loadRegs 15, 16), (.drw 1 2 1, 1)].all (fun p =>
      indexCount p.1 == some p.2 && decide (1 ≤ p.2)) = true ∧
    0xFFF < State.indexBase { State.reset with i := 0xFFE } + 3 - 1 ∧
    0xFFF < State.indexBase { State.reset with i := 0xFF1 } + 16 - 1 := by decide

theorem witness_sprite_range_of_fifteen :
    indexCount (.drw 1 2 15) = some 15 ∧ 0xFFF < State.indexBase { State.reset with i := 0xFF2 } + 15 - 1 := by decide

theorem witness_invariant_kept :
    (vec 0x1200).Inv ∧ step (vec 0x1200) = .next (after (vec 0x1200)) := ⟨⟨by decide, by decide, by decide, rfl⟩, step_after (by decide)⟩

theorem witness_invariant_kept_at_the_edges :
    State.Inv { vec 0x00EE with pc := 0x10FE, stack := Vector.replicate 16 0x1000 } ∧
    step { vec 0x00EE with pc := 0x10FE, stack := Vector.replicate 16 0x1000 } =
      .next (after { vec 0x00EE with pc := 0x10FE, stack := Vector.replicate 16 0x1000 }) := ⟨⟨by decide, by decide, by decide, rfl⟩, step_after (by decide)⟩

theorem witness_reachable :
    performAll [.keySet 3 true, .reset, .load [0x12, 0x00]] State.reset =
    .next ((State.reset.keySet 3 true).resetAgain.loadRom [0x12, 0x00]) := rfl

theorem witness_command_invariant :
    (vec 0x1200).Inv ∧
    perform (.load [0x12, 0x00]) (vec 0x1200) = .next ((vec 0x1200).loadRom [0x12, 0x00], .done) ∧
    perform (.keySet 15 true) (vec 0x1200) = .next ((vec 0x1200).keySet 15 true, .done) ∧
    perform .reset (vec 0x1200) = .next ((vec 0x1200).resetAgain, .done) ∧
    step (vec 0x1200) = .next (after (vec 0x1200)) := ⟨⟨by decide, by decide, by decide, rfl⟩, rfl, rfl, rfl, step_after (by decide)⟩

theorem witness_part_writers_of_registers_and_pc :
    (after (vec 0x61AA)).getV 1 ≠ State.reset.getV 1 ∧
    (after (vec 0xFF65)).getV 15 ≠ State.reset.getV 15 ∧ (0 : Reg) ∈ writtenRegisters (.loadRegs 0) ∧
    exec (.jp 0x300) State.reset = .next (State.reset.setPc 0x300) ∧ (State.reset.setPc 0x300).pc ≠ State.reset.pc := ⟨by decide, by decide, by decide, rfl, by decide⟩

theorem witness_part_writers :
    exec (.ldBcd 0) State.reset = .next (State.reset.writeBytes 0 [0, 0, 0]) ∧
    (State.reset.writeBytes 0 [0, 0, 0]).readByte 0 ≠ State.reset.readByte 0 ∧
    exec (.ldI 0x300) State.reset = .next (State.reset.setI 0x300) ∧ (State.reset.setI 0x300).i ≠ State.reset.i := ⟨rfl, by decide, rfl, by decide⟩

theorem witness_part_writers_of_pixels :
    isNext (exec (.drw 0 0 1) State.reset) = true ∧
    (after (vec 0xD001)).fb.pixel 0 0 ≠ State.reset.fb.pixel 0 0 := by decide

theorem witness_part_writers_of_the_stack :
    (after (vec 0x2300)).sp ≠ State.reset.sp ∧ (after (vec 0x2300)).stack[0] ≠ State.reset.stack[0] ∧
    (after (vec 0x00EE)).fault ≠ State.reset.fault ∧ (after (vec 0xC1FF)).draws ≠ State.reset.draws ∧
    (after ((vec 0xF015).setV 0 5)).dt ≠ State.reset.dt ∧ (after ((vec 0xF018).setV 0 5)).st ≠ State.reset.st := by decide

theorem witness_vf :
    exec (.shl 1 2) State.reset = .next (State.reset.writeResult 1 0 false) ∧
    State.reset.faulted = false ∧ (State.reset.writeResult 1 0 false).faulted = false ∧
    exec (.ldImm 15 7) State.reset = .next (State.reset.setV 15 7) ∧
    (State.reset.setV 15 7).getV 15 ≠ State.reset.getV 15 := ⟨rfl, rfl, rfl, rfl, by decide⟩

theorem witness_call_with_room :
    (15 : Fin 16).val = (State.sp { State.reset with sp := 15 }).val ∧ (0 : Fin 16).val = State.reset.sp.val := by decide

theorem witness_return_pending :
    (0 : Fin 16).val + 1 = (State.sp { State.reset with sp := 1 }).val ∧
    (15 : Fin 16).val + 1 = (State.sp { State.reset with sp := 16 }).val := by decide

theorem witness_call_and_return :
    State.reset.sp ≠ 16 ∧ exec (.call 0x300) State.reset = .next ((State.reset.push 0x200).setPc 0x300) := ⟨by decide, rfl⟩

theorem witness_additions :
    (1 : Reg) ≠ 15 ∧ (State.getV (State.reset.setV 1 0xFF) 1).toNat + (0x01#8).toNat > 255 := by decide

theorem witness_subtractions_and_shifts :
    (14 : Reg) ≠ 15 := by decide

theorem witness_random_mask :
    (0x0F#8).getLsbD 4 = false := by decide

theorem witness_digits_at_the_edge :
    State.indexBase { State.reset with i := 0xFFD } + 2 ≤ 0xFFF := by decide

theorem witness_block_transfer_at_the_edge :
    State.indexBase { State.reset with i := 0x1FF0 } + (15 : Reg).val ≤ 0xFFF ∧
    State.indexBase { State.reset with i := 0xFFF } + (0 : Reg).val ≤ 0xFFF ∧ (0 : Reg) ≤ 0 ∧ (15 : Reg) ≤ 15 := by decide

theorem witness_block_round_trip :
    exec (.storeRegs 0) { State.reset with i := 0xFFF } = .next (State.writeBytes { State.reset with i := 0xFFF } 0xFFF [0]) ∧
    (State.writeBytes { State.reset with i := 0xFFF } 0xFFF [0]).mem = State.reset.mem := ⟨rfl, by decide⟩

theorem witness_stored_and_fetched :
    exec (.storeRegs 1) { State.reset with i := 0x200 } =
      .next (State.writeBytes { State.reset with i := 0x200 } 0x200 [0, 0]) ∧
    (1 : Reg).val = (0 : Reg).val + 1 ∧
    (State.pc { State.reset with i := 0x200 }).toNat = State.indexBase { State.reset with i := 0x200 } + (0 : Reg).val := ⟨rfl, by decide, by decide⟩

theorem witness_sprites :
    (List.replicate 15 0xFF#8).length ≤ 15 ∧ ([] : List Byte).length ≤ 15 := by decide

theorem witness_drawing_twice :
    spriteHasBit [0x80] = true ∧ ∀ px py, spriteCovers 0xFF 0xFF [0x80] px py = true → State.reset.fb.pixel px py = false := ⟨by decide, fun px py _ => Framebuffer.pixel_blank px py⟩

theorem witness_draw_in_range :
    (0#4 = 0#4) ∧ State.indexBase { State.reset with i := 0xFF1 } + (15#4 : Nibble).toNat ≤ 0x1000 := by decide

theorem witness_draw_collides :
    (Framebuffer.setPixel State.reset.fb 0 0 true).pixel 0 0 = true ∧
    (after { vec 0xD001 with fb := State.reset.fb.setPixel 0 0 true }).fb.pixel 0 0 = false ∧
    (after { vec 0xD001 with fb := State.reset.fb.setPixel 0 0 true }).getV 15 = 0 := by decide

theorem witness_named_key :
    (5 : Key).val = ((State.reset.setV 1 0xF5).getV 1).toNat % 16 := by decide

theorem witness_key_wait :
    (∀ k, State.reset.isPressed k = false) ∧ (State.reset.keySet 15 true).isPressed 15 = true ∧
    (∀ j : Key, j < 15 → (State.reset.keySet 15 true).isPressed j = false) ∧
    (State.reset.keySet 0 true).isPressed 0 = true ∧ (∀ j : Key, j < 0 → (State.reset.keySet 0 true).isPressed j = false) := by decide

theorem witness_polling :
    (vec 0xF20A).faulted = false ∧ (vec 0xF20A).fetchedInstr = some (.ldVxKey 2) ∧
    ∀ k, (vec 0xF20A).isPressed k = false := by decide

theorem witness_timer_moves :
    (vec 0xF107).faulted = false ∧ (vec 0xF107).fetchedInstr = some (.ldVxDt 1) ∧
    (vec 0xF115).faulted = false ∧ (vec 0xF115).fetchedInstr = some (.ldDtVx 1) ∧
    (vec 0xF118).faulted = false ∧ (vec 0xF118).fetchedInstr = some (.ldStVx 1) := by decide

theorem witness_tone :
    (vec 0xF118).faulted = false ∧ (vec 0xF118).fetchedInstr = some (.ldStVx 1) ∧
    step (vec 0xF118) = .next (after (vec 0xF118)) := ⟨by decide, by decide, step_after (by decide)⟩

theorem witness_load :
    (List.replicate 3584 0#8).length ≤ 3584 ∧ 3584 < (List.replicate 3585 0#8).length := by
  simp only [List.length_replicate]; decide

theorem witness_framebuffer_export :
    (31 : Fin 32).val * 64 + (63 : Fin 64).val < 2048 := by decide

end Sys2Proof.Tests
end

section
/-! SUPPORT. What one execute step and one cycle can do, said once: the inversion of `exec` (`ExecEffect`) and of `step`,
from which the invariant and the table of writers are read off. -/

namespace Sys2Proof.Machine

/-- What the execute step of an instruction can do to the state: one case for each shape of effect, over the instructions
that have it, and one case for each fault that an execute step can raise. -/
inductive ExecEffect (s : State) : Instr → State → Prop
  | nothing (addr : Addr) : ExecEffect s (.sys addr) s
  | clear : ExecEffect s .cls { s with fb := Framebuffer.blank }
  | draw (x y : Reg) (n : Nibble) (fb : Framebuffer) (f : Bool) :
      ExecEffect s (.drw x y n) (State.setFlag { s with fb := fb } f)
  | jump {i : Instr} (addr : Addr) (p : Word) (hi : i ∈ [.jp addr, .jpV0 addr]) (hp : p.toNat ≤ 0x10FE) :
      ExecEffect s i (s.setPc p)
  | call (addr : Addr) (hsp : s.sp ≠ 16) : ExecEffect s (.call addr) ((s.push s.pc).setPc (absoluteTarget addr))
  | ret (hsp : s.sp ≠ 0) : ExecEffect s .ret (s.pop.setPc s.topOfStack)
  | skip {i : Instr} (x y : Reg) (kk : Byte) (c : Bool)
      (hi : i ∈ [.seImm x kk, .sneImm x kk, .seReg x y, .sneReg x y, .skp x, .sknp x]) : ExecEffect s i (s.skipIf c)
  | poll (x : Reg) : ExecEffect s (.ldVxKey x) (s.setPc (s.pc - 2#16))
  | load {i : Instr} (x y : Reg) (kk b : Byte)
      (hi : i ∈ [.ldImm x kk, .ldReg x y, .orReg x y, .andReg x y, .xorReg x y, .ldVxDt x, .ldVxKey x]) :
      ExecEffect s i (s.setV x b)
  | random (x : Reg) (kk b : Byte) : ExecEffect s (.rnd x kk) (s.countDraw.setV x b)
  | flagged {i : Instr} (x y : Reg) (kk b : Byte) (f : Bool)
      (hi : i ∈ [.addImm x kk, .addReg x y, .subReg x y, .subnReg x y, .shr x y, .shl x y]) :
      ExecEffect s i (s.writeResult x b f)
  | loadBlock (x : Reg) (v : Vector Byte 16) (hv : ∀ k : Reg, ¬ k ≤ x → v[k.val] = s.getV k) :
      ExecEffect s (.loadRegs x) { s with v := v }
  | store {i : Instr} (x : Reg) (bytes : List Byte) (hi : i ∈ [.ldBcd x, .storeRegs x]) :
      ExecEffect s i (s.writeBytes s.indexBase bytes)
  | index {i : Instr} (addr : Addr) (x : Reg) (a : Word) (hi : i ∈ [.ldI addr, .addI x, .ldFont x]) :
      ExecEffect s i (s.setI a)
  | delay (x : Reg) (b : Byte) : ExecEffect s (.ldDtVx x) (s.setDt b)
  | sound (x : Reg) (b : Byte) : ExecEffect s (.ldStVx x) (s.setSt b)
  | overflow (addr : Addr) (hsp : s.sp = 16) : ExecEffect s (.call addr) (s.raiseAt .stackOverflow (.call addr) 0#16)
  | underflow (hsp : s.sp = 0) : ExecEffect s .ret (s.raiseAt .stackUnderflow .ret 0#16)
  | memRange {i : Instr} (n : Nat) (hi : indexCount i = some n) (hn : 1 ≤ n) (hlast : 0xFFF < s.lastAddress n) :
      ExecEffect s i (s.raiseAt .memRange i (BitVec.ofNat 16 (s.lastAddress n)))

/-! ### The execute step -/

@[simp] theorem absoluteTarget_toNat (addr : Addr) : (absoluteTarget addr).toNat = addr.toNat := by
  have := addr.isLt
  simp [absoluteTarget]; omega

/-- "at most 0x10FE" (40_control_flow.md R127). -/
theorem indexedTarget_toNat_le (addr : Addr) (b : Byte) : (indexedTarget addr b).toNat ≤ 0x10FE := by
  have := addr.isLt
  have := b.isLt
  simp [indexedTarget]; omega

/-- An access through `I` has its own effect or raises `MemRange`. -/
theorem execEffect_of_withIndexRange {s t effect : State} {i : Instr} {n : Nat} (hi : indexCount i = some n)
    (he : ExecEffect s i effect) (h : withIndexRange s i n effect = .next t) : ExecEffect s i t := by
  obtain ⟨-, rfl⟩ | ⟨hr, rfl⟩ := withIndexRange_cases h
  · exact he
  · have hn : ¬ (n = 0 ∨ s.indexBase + n ≤ 4096) := by rw [← State.rangeOk_iff, hr]; simp
    exact .memRange n hi (by omega) (by unfold State.lastAddress; omega)

/-- What `exec` can do: one case of `ExecEffect` for the instruction it executes. -/
theorem exec_effect {i : Instr} {s t : State} (h : exec i s = .next t) : ExecEffect s i t := by
  cases i with
  | cls => cases h; exact .clear
  | sys addr => cases h; exact .nothing addr
  | ret =>
    by_cases hsp : s.sp.val = 0
    · simp only [exec, execRet, if_pos hsp] at h; cases h; exact .underflow (Fin.ext hsp)
    · simp only [exec, execRet, if_neg hsp] at h; cases h; exact .ret fun e => hsp (by simp [e])
  | call addr =>
    by_cases hsp : s.sp.val = 16
    · simp only [exec, execCall, if_pos hsp] at h; cases h; exact .overflow addr (Fin.ext hsp)
    · simp only [exec, execCall, if_neg hsp] at h; cases h; exact .call addr fun e => hsp (by simp [e])
  | jp addr => cases h; exact .jump addr _ (by simp) (by have := addr.isLt; simp; omega)
  | jpV0 addr => cases h; exact .jump addr _ (by simp) (indexedTarget_toNat_le addr _)
  | seImm x kk => cases h; exact .skip x 0 kk _ (by simp)
  | sneImm x kk => cases h; exact .skip x 0 kk _ (by simp)
  | seReg x y => cases h; exact .skip x y 0 _ (by simp)
  | sneReg x y => cases h; exact .skip x y 0 _ (by simp)
  | skp x => cases h; exact .skip x 0 0 _ (by simp)
  | sknp x => cases h; exact .skip x 0 0 _ (by simp)
  | ldImm x kk => cases h; exact .load x 0 kk _ (by simp)
  | ldReg x y => cases h; exact .load x y 0 _ (by simp)
  | orReg x y => cases h; exact .load x y 0 _ (by simp)
  | andReg x y => cases h; exact .load x y 0 _ (by simp)
  | xorReg x y => cases h; exact .load x y 0 _ (by simp)
  | ldVxDt x => cases h; exact .load x 0 0 _ (by simp)
  | ldVxKey x =>
    simp only [exec, execLdVxKey] at h
    split at h <;> cases h
    · exact .poll x
    · exact .load x 0 0 _ (by simp)
  | rnd x kk => cases h; exact .random x kk _
  | addImm x kk => cases h; exact .flagged x 0 kk _ _ (by simp)
  | addReg x y => cases h; exact .flagged x y 0 _ _ (by simp)
  | subReg x y => cases h; exact .flagged x y 0 _ _ (by simp)
  | subnReg x y => cases h; exact .flagged x y 0 _ _ (by simp)
  | shr x y => cases h; exact .flagged x y 0 _ _ (by simp)
  | shl x y => cases h; exact .flagged x y 0 _ _ (by simp)
  | ldI addr => cases h; exact .index addr 0 _ (by simp)
  | addI x => cases h; exact .index 0 x _ (by simp)
  | ldFont x => cases h; exact .index 0 x _ (by simp)
  | ldDtVx x => cases h; exact .delay x _
  | ldStVx x => cases h; exact .sound x _
  | drw x y n => exact execEffect_of_withIndexRange rfl (.draw x y n _ _) h
  | ldBcd x => exact execEffect_of_withIndexRange rfl (.store x _ (by simp)) h
  | storeRegs x => exact execEffect_of_withIndexRange rfl (.store x _ (by simp)) h
  | loadRegs x =>
    exact execEffect_of_withIndexRange rfl (.loadBlock x _ fun k hk => by simp [hk]) h

/-! ### The cycle -/

/-- What a cycle can do (70_reset_and_hazards.md R285): nothing on a faulted machine, `FetchRange`, the no-op of an
unknown word, or the execute step of the fetched instruction. -/
theorem step_cases {s t : State} (h : step s = .next t) :
    (s.faulted = true ∧ t = s) ∨
    (s.faulted = false ∧ 0xFFF ≤ s.pc.toNat ∧ t = s.raiseFetchRange) ∨
    (s.faulted = false ∧ s.pc.toNat ≤ 0xFFE ∧
      ∃ w r, s.fetchWord = some w ∧ decode w = .error r ∧ t = s.advancePc.endCycle) ∨
    (s.faulted = false ∧ s.pc.toNat ≤ 0xFFE ∧
      ∃ w i u, s.fetchWord = some w ∧ decode w = .ok i ∧ exec i s.advancePc = .next u ∧ t = u.endCycle) := by
  unfold step at h
  cases hf : s.faulted with
  | true => simp only [hf, if_true] at h; cases h; exact .inl ⟨rfl, rfl⟩
  | false =>
    have hpc := s.fetchWord_isSome
    simp only [hf, Bool.false_eq_true, if_false] at h
    cases hw : s.fetchWord with
    | none =>
      simp only [hw, Option.isSome_none, Bool.false_eq_true, false_iff] at h hpc
      cases h
      exact .inr (.inl ⟨rfl, by omega, rfl⟩)
    | some w =>
      simp only [hw, Option.isSome_some, true_iff] at h hpc
      cases hd : decode w with
      | error r =>
        simp only [hd, finishCycle] at h
        cases h
        exact .inr (.inr (.inl ⟨rfl, hpc, w, r, rfl, hd, rfl⟩))
      | ok i =>
        simp only [hd] at h
        obtain ⟨u, hu, rfl⟩ := finishCycle_next h
        exact .inr (.inr (.inr ⟨rfl, hpc, w, i, u, rfl, hd, hu, rfl⟩))

end Sys2Proof.Machine
end

section
/-! SUPPORT. The invariant of the reachable states, part by part over `ExecEffect`, then over a cycle, a command and a
sequence of commands. -/

namespace Sys2Proof.Machine

/-! ### The words recorded in a fault record decode -/

theorem decode_encode_call (addr : Addr) : decode (encode (.call addr)) = .ok (.call addr) := by
  simp [encode, decode, fieldN3_formatA, fieldAddr_formatA]

/-- The four instructions that access memory through `I` come back from their words. -/
theorem decode_encode_of_indexCount {i : Instr} {n : Nat} (h : indexCount i = some n) : decode (encode i) = .ok i := by
  cases i with
  | drw x y n =>
    simp [encode, decode, fieldN3_formatXYN, fieldX_formatXYN, fieldY_formatXYN, fieldN_formatXYN]
  | ldBcd x => simp [encode, decode, decodeGroupF, fieldN3_formatXK, fieldX_formatXK, fieldKk_formatXK]
  | storeRegs x => simp [encode, decode, decodeGroupF, fieldN3_formatXK, fieldX_formatXK, fieldKk_formatXK]
  | loadRegs x => simp [encode, decode, decodeGroupF, fieldN3_formatXK, fieldX_formatXK, fieldKk_formatXK]
  | _ => cases h

theorem indexCount_le {i : Instr} {n : Nat} (h : indexCount i = some n) : n ≤ 16 := by
  cases i with
  | drw x y k => cases h; have := k.isLt; omega
  | ldBcd x => cases h; decide
  | storeRegs x => cases h; exact x.isLt
  | loadRegs x => cases h; exact x.isLt
  | _ => cases h

/-! ### The fault record -/

namespace State

/-- The record's legality speaks of `FAULT`, `PC`, `SP` and `I` alone. -/
theorem faultRecordLegal_congr {s t : State} (hf : t.fault = s.fault) (hpc : t.pc = s.pc) (hsp : t.sp = s.sp)
    (hi : t.i = s.i) : t.faultRecordLegal ↔ s.faultRecordLegal := by
  simp only [faultRecordLegal, lastAddress, indexBase, hf, hpc, hsp, hi]

theorem faultRecordLegal_of_clear {s : State} (h : s.fault = FaultRecord.clear) : s.faultRecordLegal := by
  simp [faultRecordLegal, h, FaultRecord.clear]

theorem fault_eq_clear {s : State} (hl : s.faultRecordLegal) (hf : s.faulted = false) : s.fault = FaultRecord.clear := by
  have hc : s.fault.cause = .none := by simpa [faulted] using hf
  simpa [faultRecordLegal, hc] using hl

theorem raiseFetchRange_legal {s : State} (h : 0xFFF ≤ s.pc.toNat) : s.raiseFetchRange.faultRecordLegal := by
  have haddr : (if s.pc = 0xFFF#16 then s.pc + 1#16 else s.pc).toNat = max 0x1000 s.pc.toNat := by
    split
    · rename_i hpc; simp [hpc]
    · rename_i hpc
      have : s.pc.toNat ≠ 0xFFF := fun e => hpc (BitVec.eq_of_toNat_eq e)
      omega
  exact ⟨rfl, rfl, rfl, h, haddr⟩

theorem lastAddress_le (s : State) {i : Instr} {n : Nat} (hi : indexCount i = some n) : s.lastAddress n ≤ 0x100E := by
  have := s.indexBase_lt
  have := indexCount_le hi
  unfold lastAddress; omega

theorem raiseAt_memRange_legal (s : State) {i : Instr} {n : Nat} (hi : indexCount i = some n) (hn : 1 ≤ n)
    (hlast : 0xFFF < s.lastAddress n) :
    (s.raiseAt .memRange i (BitVec.ofNat 16 (s.lastAddress n))).faultRecordLegal := by
  have hle := s.lastAddress_le hi
  have haddr : (BitVec.ofNat 16 (s.lastAddress n)).toNat = s.lastAddress n := Nat.mod_eq_of_lt (by omega)
  refine ⟨rfl, rfl, i, n, decode_encode_of_indexCount hi, hi, hn, haddr, ?_, ?_⟩ <;>
    simp only [raiseAt_fault, haddr] <;> omega

end State

/-! ### What an execute step keeps -/

namespace ExecEffect

variable {i : Instr} {s t : State}

theorem mem_wf (h : ExecEffect s i t) (hs : s.mem.wf) : t.mem.wf := by
  cases h with
  | store x bytes hi => exact State.writeBytes_wf hs _ _
  | skip => simpa using hs
  | _ => exact hs

/-- A push stores the already-advanced `PC` (40_control_flow.md R121); no other effect touches the stack. -/
theorem stack_le {b : Nat} (h : ExecEffect s i t) (hpc : s.pc.toNat ≤ b) (hs : ∀ k : Fin 16, s.stack[k.val].toNat ≤ b)
    (k : Fin 16) : t.stack[k.val].toNat ≤ b := by
  cases h with
  | call addr =>
    simp only [State.setPc_stack, State.stack_push]
    split
    · exact hpc
    · exact hs k
  | skip => simpa using hs k
  | store => simpa using hs k
  | _ => exact hs k

/-- 10_state.md R34: from an advanced `PC`, the execute step ends at most at 0x10FE. -/
theorem pc_le (h : ExecEffect s i t) (hlo : 2 ≤ s.pc.toNat) (hhi : s.pc.toNat ≤ 0x1000)
    (hs : ∀ k : Fin 16, s.stack[k.val].toNat ≤ 0x1000) : t.pc.toNat ≤ 0x10FE := by
  have hback : (s.pc - 2#16).toNat ≤ 0x10FE := by bv_omega
  cases h with
  | jump addr p hi hp => exact hp
  | call addr => have := addr.isLt; simp; omega
  | ret hsp => exact (hs ⟨s.sp.val - 1, by omega⟩).trans (by omega)
  | skip x y kk c hi => simp only [State.skipIf_pc]; split <;> bv_omega
  | poll | overflow | underflow | memRange => exact hback
  | store => simp; omega
  | _ => exact hhi.trans (by omega)

/-- An execute step leaves a clear record, or writes one that is legal (60_exceptions.md R246). -/
theorem faultRecordLegal (h : ExecEffect s i t) (hs : s.fault = FaultRecord.clear) : t.faultRecordLegal := by
  cases h with
  | overflow addr hsp => exact ⟨rfl, rfl, hsp, rfl, addr, decode_encode_call addr⟩
  | underflow hsp => exact ⟨rfl, rfl, hsp, rfl, rfl⟩
  | memRange n hi hn hlast => exact s.raiseAt_memRange_legal hi hn hlast
  | skip => exact State.faultRecordLegal_of_clear (by simpa using hs)
  | store => exact State.faultRecordLegal_of_clear (by simpa using hs)
  | _ => exact State.faultRecordLegal_of_clear hs

end ExecEffect

/-! ### What a cycle keeps -/

namespace State

/-- The invariant speaks of memory, `PC`, the stack and the terms of the fault record alone. -/
theorem Inv.of_frame {s t : State} (h : s.Inv) (hmem : t.mem.wf) (hpc : t.pc = s.pc) (hstack : t.stack = s.stack)
    (hfault : t.fault = s.fault) (hsp : t.sp = s.sp) (hi : t.i = s.i) : t.Inv := by
  obtain ⟨-, hp, hk, hl⟩ := h
  exact ⟨hmem, by rwa [hpc], fun k => by simpa [hstack] using hk k, (faultRecordLegal_congr hfault hpc hsp hi).2 hl⟩

theorem Inv.endCycle {s : State} (h : s.Inv) : s.endCycle.Inv := by
  cases hf : s.faulted with
  | true => rwa [endCycle_of_faulted hf]
  | false => rw [endCycle_of_not_faulted hf]; exact h.of_frame h.1 rfl rfl rfl rfl rfl

theorem Inv.raiseFetchRange {s : State} (h : s.Inv) (hpc : 0xFFF ≤ s.pc.toNat) : s.raiseFetchRange.Inv := by
  obtain ⟨hm, hp, hk, -⟩ := h
  exact ⟨hm, hp, hk, raiseFetchRange_legal hpc⟩

theorem advancePc_toNat {s : State} (h : s.pc.toNat ≤ 0xFFE) : s.advancePc.pc.toNat = s.pc.toNat + 2 := by
  rw [advancePc_pc]; bv_omega

/-- The execute step of a fetched instruction keeps the invariant. -/
theorem Inv.exec {i : Instr} {s t : State} (h : s.Inv) (hf : s.faulted = false) (hpc : s.pc.toNat ≤ 0xFFE)
    (he : ExecEffect s.advancePc i t) : t.Inv := by
  obtain ⟨hm, -, hk, hl⟩ := h
  have hp := advancePc_toNat hpc
  have hclear := fault_eq_clear hl hf
  exact ⟨he.mem_wf hm, he.pc_le (by omega) (by omega) hk, he.stack_le (by omega) hk,
    he.faultRecordLegal hclear⟩

/-- The no-op of an unknown word is the execute step of a `SYS`, whose effect is nothing. -/
theorem Inv.advancePc {s : State} (h : s.Inv) (hf : s.faulted = false) (hpc : s.pc.toNat ≤ 0xFFE) :
    s.advancePc.Inv := h.exec hf hpc (.nothing 0)

theorem Inv.step {s t : State} (h : s.Inv) (hstep : step s = .next t) : t.Inv := by
  obtain ⟨-, rfl⟩ | ⟨-, hpc, rfl⟩ | ⟨hf, hpc, w, r, -, -, rfl⟩ | ⟨hf, hpc, w, i, u, -, -, hu, rfl⟩ := step_cases hstep
  · exact h
  · exact h.raiseFetchRange hpc
  · exact (h.advancePc hf hpc).endCycle
  · exact (h.exec hf hpc (exec_effect hu)).endCycle

/-! ### What a command keeps -/

theorem reset_inv : reset.Inv :=
  ⟨Memory.reset_wf, by decide, by decide, faultRecordLegal_of_clear rfl⟩

/-- `Reset` differs from the state after reset in `draws` alone, of which the invariant says nothing. -/
theorem resetAgain_inv (s : State) : s.resetAgain.Inv := reset_inv.of_frame Memory.reset_wf rfl rfl rfl rfl rfl

/-- `Load` writes memory alone (70_reset_and_hazards.md R283). -/
theorem Inv.loadRom {s : State} (h : s.Inv) (bytes : List Byte) : (s.loadRom bytes).Inv :=
  h.of_frame (writeBytes_wf h.1 _ _) (writeBytes_pc s _ _) (writeBytes_stack s _ _) (writeBytes_fault s _ _)
    (writeBytes_sp s _ _) (writeBytes_i s _ _)

theorem Inv.perform {c : Command} {s t : State} {reply : Reply} (h : s.Inv) (hc : perform c s = .next (t, reply)) :
    t.Inv := by
  obtain ⟨-, rfl, -⟩ | ⟨bytes, -, -, rfl, -⟩ | ⟨bytes, -, -, rfl, -⟩ | ⟨k, b, -, rfl, -⟩ | ⟨-, hstep, -⟩ :=
    perform_cases hc
  · exact s.resetAgain_inv
  · exact h.loadRom bytes
  · exact h
  · exact h.of_frame h.1 rfl rfl rfl rfl rfl
  · exact h.step hstep

theorem Inv.performAll {cs : List Command} {s t : State} (h : s.Inv) (hc : performAll cs s = .next t) : t.Inv := by
  induction cs generalizing s with
  | nil => cases hc; exact h
  | cons c rest ih =>
    cases hp : Machine.perform c s with
    | next r =>
      simp only [Machine.performAll, hp] at hc
      exact ih (h.perform hp) hc
    | fault r => simp only [Machine.performAll, hp] at hc; cases hc
    | refused r => simp only [Machine.performAll, hp] at hc; cases hc

end State

/-! ### The statements -/

/-- Settles O20: every case of a cycle keeps the invariant. -/
theorem everyCycleKeepsTheInvariant : Obligations.EveryCycleKeepsTheInvariant := fun _ _ h hstep => h.step hstep

/-- Settles O58: every command of the host keeps the invariant. -/
theorem everyCommandKeepsTheInvariant : Obligations.EveryCommandKeepsTheInvariant := fun _ _ _ _ h hc => h.perform hc

/-- Settles O21, by induction on the sequence of commands from the reset state. -/
theorem everyReachableStateMeetsTheInvariant : Obligations.EveryReachableStateMeetsTheInvariant :=
  fun _ _ hc => State.reset_inv.performAll hc

end Sys2Proof.Machine
end

section
/-! SUPPORT. Who writes what in the execute step, part by part over `ExecEffect` (the table of 10_state.md section 1), and
the flag register. -/

namespace Sys2Proof.Machine

/-- A register that a write changes is the one it names. -/
theorem State.eq_of_getV_setV_ne {s : State} {x k : Reg} {b : Byte} (h : (s.setV x b).getV k ≠ s.getV k) : k = x :=
  by_contra fun hk => h (State.getV_setV_ne s x k b hk)

namespace ExecEffect

variable {i : Instr} {s t : State}

/-- A register is written only by an instruction that lists it among the registers it writes. -/
theorem mem_writtenRegisters (h : ExecEffect s i t) (k : Reg) (hne : t.getV k ≠ s.getV k) : k ∈ writtenRegisters i := by
  cases h with
  | load x y kk b hi =>
    have hk : k = x := State.eq_of_getV_setV_ne hne
    simp only [List.mem_cons, List.not_mem_nil, or_false] at hi
    rcases hi with rfl | rfl | rfl | rfl | rfl | rfl | rfl <;> simp [writtenRegisters, hk]
  | flagged x y kk b f hi =>
    have hk : k = 15 ∨ k = x := by
      by_contra hk
      rw [not_or] at hk
      exact hne (by rw [State.getV_writeResult, if_neg hk.1, if_neg hk.2])
    simp only [List.mem_cons, List.not_mem_nil, or_false] at hi
    rcases hi with rfl | rfl | rfl | rfl | rfl | rfl <;> simp [writtenRegisters, hk.symm]
  | random x kk b =>
    have hk : k = x := State.eq_of_getV_setV_ne (s := s.countDraw) hne
    simp [writtenRegisters, hk]
  | draw x y n fb f =>
    have hk : k = 15 := State.eq_of_getV_setV_ne (s := { s with fb := fb }) hne
    simp [writtenRegisters, hk]
  | loadBlock x v hv =>
    have hk : k ≤ x := by_contra fun hk => hne (hv k hk)
    simpa using hk
  | _ => exact absurd (State.getV_congr (by simp) k) hne

theorem pc_writer (h : ExecEffect s i t) (hne : t.pc ≠ s.pc) :
    (∃ a, i ∈ [.jp a, .jpV0 a, .call a]) ∨ i = .ret ∨
    (∃ x y kk, i ∈ [.seImm x kk, .sneImm x kk, .seReg x y, .sneReg x y, .skp x, .sknp x, .ldVxKey x]) ∨
    ∃ n, indexCount i = some n ∧ 1 ≤ n ∧ 0xFFF < s.indexBase + n - 1 := by
  cases h with
  | jump addr p hi => exact .inl ⟨addr, List.mem_append_left [Instr.call addr] hi⟩
  | call addr | overflow addr => exact .inl ⟨addr, by simp⟩
  | ret | underflow => exact .inr (.inl rfl)
  | skip x y kk c hi => exact .inr (.inr (.inl ⟨x, y, kk, List.mem_append_left [Instr.ldVxKey x] hi⟩))
  | poll x => exact .inr (.inr (.inl ⟨x, 0, 0, by simp⟩))
  | memRange n hi hn hlast => exact .inr (.inr (.inr ⟨n, hi, hn, hlast⟩))
  | _ => simp at hne

theorem mem_writer (h : ExecEffect s i t) (hne : t.mem ≠ s.mem) : (∃ x, i = .ldBcd x) ∨ ∃ x, i = .storeRegs x := by
  cases h with
  | store x bytes hi => exact (List.mem_pair.1 hi).imp (⟨x, ·⟩) (⟨x, ·⟩)
  | _ => simp at hne

theorem fb_writer (h : ExecEffect s i t) (hne : t.fb ≠ s.fb) : i = .cls ∨ ∃ x y n, i = .drw x y n := by
  cases h with
  | clear => exact .inl rfl
  | draw x y n => exact .inr ⟨x, y, n, rfl⟩
  | _ => simp at hne

theorem sp_writer (h : ExecEffect s i t) (hne : t.sp ≠ s.sp) : i = .ret ∨ ∃ a, i = .call a := by
  cases h with
  | ret => exact .inl rfl
  | call addr => exact .inr ⟨addr, rfl⟩
  | _ => simp at hne

theorem stack_writer (h : ExecEffect s i t) (hne : t.stack ≠ s.stack) : ∃ a, i = .call a := by
  cases h with
  | call addr => exact ⟨addr, rfl⟩
  | _ => simp at hne

theorem i_writer (h : ExecEffect s i t) (hne : t.i ≠ s.i) :
    (∃ a, i = .ldI a) ∨ (∃ x, i = .addI x) ∨ ∃ x, i = .ldFont x := by
  cases h with
  | index addr x a hi =>
    simp only [List.mem_cons, List.not_mem_nil, or_false] at hi
    exact hi.imp (⟨addr, ·⟩) (Or.imp (⟨x, ·⟩) (⟨x, ·⟩))
  | _ => simp at hne

theorem dt_writer (h : ExecEffect s i t) (hne : t.dt ≠ s.dt) : ∃ x, i = .ldDtVx x := by
  cases h with
  | delay x => exact ⟨x, rfl⟩
  | _ => simp at hne

theorem st_writer (h : ExecEffect s i t) (hne : t.st ≠ s.st) : ∃ x, i = .ldStVx x := by
  cases h with
  | sound x => exact ⟨x, rfl⟩
  | _ => simp at hne

theorem fault_writer (h : ExecEffect s i t) (hne : t.fault ≠ s.fault) :
    i = .ret ∨ (∃ a, i = .call a) ∨ ∃ n, indexCount i = some n := by
  cases h with
  | underflow => exact .inl rfl
  | overflow addr => exact .inr (.inl ⟨addr, rfl⟩)
  | memRange n hi => exact .inr (.inr ⟨n, hi⟩)
  | _ => simp at hne

theorem keys_eq (h : ExecEffect s i t) : t.keys = s.keys := by
  cases h <;> simp

theorem draws_writer (h : ExecEffect s i t) (hne : t.draws ≠ s.draws) : ∃ x kk, i = .rnd x kk := by
  cases h with
  | random x kk => exact ⟨x, kk, rfl⟩
  | _ => simp at hne

/-- Any instruction but a flag writer changes `VF` only as its destination (10_state.md R27, with D6 and D7). -/
theorem vf_writer (h : ExecEffect s i t) (hne : t.getV 15 ≠ s.getV 15) :
    (∃ x y kk n, i ∈ [.addImm x kk, .addReg x y, .subReg x y, .subnReg x y, .shr x y, .shl x y, .drw x y n]) ∨
    ∃ y kk, i ∈ [.ldImm 15 kk, .ldReg 15 y, .orReg 15 y, .andReg 15 y, .xorReg 15 y, .rnd 15 kk, .ldVxDt 15,
      .ldVxKey 15, .loadRegs 15] := by
  cases h with
  | flagged x y kk b f hi => exact .inl ⟨x, y, kk, 0, List.mem_append_left [Instr.drw x y 0] hi⟩
  | draw x y n => exact .inl ⟨x, y, 0, n, by simp⟩
  | load x y kk b hi =>
    obtain rfl : 15 = x := State.eq_of_getV_setV_ne hne
    simp only [List.mem_cons, List.not_mem_nil, or_false] at hi ⊢
    exact .inr ⟨y, kk, by tauto⟩
  | random x kk b =>
    obtain rfl : 15 = x := State.eq_of_getV_setV_ne (s := s.countDraw) hne
    exact .inr ⟨0, kk, by simp⟩
  | loadBlock x v hv =>
    have hx : 15 ≤ x := by_contra fun hx => hne (hv 15 hx)
    obtain rfl : x = 15 := le_antisymm (Fin.le_last x) hx
    exact .inr ⟨0, 0, by simp⟩
  | _ => exact absurd (State.getV_congr (by simp) 15) hne

end ExecEffect

/-! ### The flag writers -/

theorem flagByte_cases (f : Bool) : flagByte f = 0#8 ∨ flagByte f = 1#8 := by cases f <;> decide

/-- Every flag writer ends with a flag write to `VF` (10_state.md R29), or raises a fault. -/
theorem exec_flagWriter {i : Instr} {s t : State} {x y : Reg} {kk : Byte} {n : Nibble} (h : exec i s = .next t)
    (hi : i ∈ [.addImm x kk, .addReg x y, .subReg x y, .subnReg x y, .shr x y, .shl x y, .drw x y n])
    (hf : t.faulted = false) : ∃ (u : State) (f : Bool), t = u.setFlag f := by
  simp only [List.mem_cons, List.not_mem_nil, or_false] at hi
  rcases hi with rfl | rfl | rfl | rfl | rfl | rfl | rfl
  on_goal 7 =>
    obtain ⟨-, rfl⟩ | ⟨-, rfl⟩ := withIndexRange_cases h
    · exact ⟨_, _, rfl⟩
    · rw [State.raiseAt_faulted s (by decide)] at hf; cases hf
  all_goals cases h; exact ⟨_, _, rfl⟩

/-! ### Reset -/

/-- The reset contents of memory: `FONT_DATA` has 80 bytes, so past them `resetByte` is 0 (10_state.md R51). -/
theorem resetByte_eq (a : Nat) :
    resetByte a = if hardware.fontBase.toNat ≤ a ∧ a < hardware.fontBase.toNat + 80
      then hardware.fontData.getD (a - hardware.fontBase.toNat) 0#8 else 0#8 := by
  have hlen : hardware.fontData.length = 80 := rfl
  unfold resetByte
  by_cases hlo : hardware.fontBase.toNat ≤ a
  · by_cases hhi : a < hardware.fontBase.toNat + 80
    · simp only [hlo, hhi, and_self, if_true]
    · simp only [hlo, hhi, and_false, if_true, if_false]
      exact List.getD_eq_default _ _ (by omega)
  · simp only [hlo, false_and, if_false]

/-! ### The statements -/

/-- Settles O22, one lemma on `ExecEffect` for each part of the state. -/
theorem eachPartIsWrittenOnlyByItsInstructions : Obligations.EachPartIsWrittenOnlyByItsInstructions := by
  intro i s t h
  have he := exec_effect h
  refine ⟨he.mem_writtenRegisters, he.pc_writer, ?_, ?_, he.sp_writer, ?_, he.i_writer, he.dt_writer, he.st_writer,
    he.fault_writer, State.isPressed_congr he.keys_eq, he.draws_writer⟩
  · exact fun ⟨a, ha⟩ => he.mem_writer fun e => ha (State.readByte_congr e a)
  · exact fun ⟨px, py, hp⟩ => he.fb_writer fun e => hp (by rw [e])
  · exact fun ⟨k, hk⟩ => he.stack_writer fun e => hk (by simp only [e])

/-- Settles O23: a flag writer ends with a flag write, and the other effects write `VF` as a destination. -/
theorem vfIsWrittenOnlyAsFlagOrDestination : Obligations.VfIsWrittenOnlyAsFlagOrDestination := by
  intro i s t h
  refine ⟨fun x y kk n hi _ hf => ?_, (exec_effect h).vf_writer⟩
  obtain ⟨u, f, rfl⟩ := exec_flagWriter h hi hf
  rw [State.getV_setFlag, if_pos rfl]
  exact flagByte_cases f

/-- Settles O1: the registers, `FB` and `MEM` of the reset state, `MEM` by `resetByte_eq`. -/
theorem resetClearsRegistersDisplayAndMemory : Obligations.ResetClearsRegistersDisplayAndMemory :=
  ⟨by decide, rfl, Framebuffer.pixel_blank, rfl, fun a => resetByte_eq a.toNat⟩

/-- Settles O2: each field of the reset state. -/
theorem resetTakesTheDecidedValues : Obligations.ResetTakesTheDecidedValues :=
  ⟨rfl, rfl, rfl, by decide, rfl, rfl, by decide, rfl, rfl⟩

end Sys2Proof.Machine
end

section
/-! SUPPORT. The stores through `I` as seen by a later read: a byte of a store by its offset, the block store, and the
fetch. -/

namespace Sys2Proof.Machine

/-- The byte at an offset inside the stored bytes is the one stored there (20_memory.md R62, R64). -/
theorem State.readByte_writeBytes_offset (s : State) {base k : Nat} {bytes : List Byte}
    (hbase : base + bytes.length ≤ 4096) (hk : k < bytes.length) :
    (s.writeBytes base bytes).readByte (BitVec.ofNat 12 (base + k)) = bytes[k] := by
  have ha : (BitVec.ofNat 12 (base + k)).toNat = base + k := by
    rw [BitVec.toNat_ofNat]; exact Nat.mod_eq_of_lt (by omega)
  rw [State.readByte_writeBytes s base bytes hbase, if_pos (by omega), ha, Nat.add_sub_cancel_left,
    List.getD_eq_getElem _ _ hk]

/-- A block store in range has its effect (43_index_memory.md R174). -/
theorem exec_storeRegs_of_inRange {x : Reg} {s : State} (hr : s.indexBase + x.val ≤ 0xFFF) :
    exec (.storeRegs x) s = .next (s.writeBytes s.indexBase (s.v.toList.take (x.val + 1))) :=
  withIndexRange_ok ((s.rangeOk_iff _).2 (by omega))

/-- After a block store in range the byte at offset `k` is `V[k]` (43_index_memory.md R174). -/
theorem readByte_of_exec_storeRegs {x k : Reg} {s t : State} (hr : s.indexBase + x.val ≤ 0xFFF)
    (h : exec (.storeRegs x) s = .next t) (hk : k ≤ x) :
    t.readByte (BitVec.ofNat 12 (s.indexBase + k.val)) = s.getV k := by
  have hkx : k.val ≤ x.val := hk
  have hlen : (s.v.toList.take (x.val + 1)).length = x.val + 1 := by simp
  cases (exec_storeRegs_of_inRange hr).symm.trans h
  rw [State.readByte_writeBytes_offset s (by omega) (by omega)]
  simp [State.getV]

/-- A block store in range leaves `PC` as it was. -/
theorem pc_of_exec_storeRegs {x : Reg} {s t : State} (hr : s.indexBase + x.val ≤ 0xFFF)
    (h : exec (.storeRegs x) s = .next t) : t.pc = s.pc := by
  cases (exec_storeRegs_of_inRange hr).symm.trans h
  exact s.writeBytes_pc _ _

/-- The fetch in range reads the high byte at `PC` and the low byte at `PC` + 1 (20_memory.md R63). -/
theorem State.fetchWord_of_pc {s : State} {a : Nat} (hpc : s.pc.toNat = a) (ha : a ≤ 0xFFE) :
    s.fetchWord = some (s.readByte (BitVec.ofNat 12 a) ++ s.readByte (BitVec.ofNat 12 (a + 1))) := by
  subst hpc
  exact if_pos ha

/-! ### The statement -/

/-- Settles O43: the store leaves `PC`, and the fetch reads the two bytes at `PC` and `PC` + 1 where `V[j]` and `V[k]`
were stored. -/
theorem storedBytesAreFetchedNext : Obligations.StoredBytesAreFetchedNext := by
  intro x j k s t hr h hj hk hjk hpc
  have hkx : k.val ≤ x.val := hk
  have htpc : t.pc.toNat = s.indexBase + j.val := by rw [pc_of_exec_storeRegs hr h, hpc]
  rw [State.fetchWord_of_pc htpc (by omega), readByte_of_exec_storeRegs hr h hj, Nat.add_assoc, ← hjk,
    readByte_of_exec_storeRegs hr h hk]

end Sys2Proof.Machine
end

section
/-! SUPPORT. Decoding and encoding are inverse to each other (30_encoding.md R91 to R94): what `decode` can answer, said
once as `DecodeOutcome`; the opcode map as rows (R105); the cycle of an unknown word (R99). -/

namespace Sys2Proof

/-! ### Decoding the word of an instruction -/

/-- `SYS addr` is tested last in its group, so it comes back unless its word is that of `CLS` or `RET`
(30_encoding.md R93, R97). -/
theorem decode_encode_sys {addr : Addr} (h : (Instr.sys addr).wellFormed = true) :
    decode (encode (.sys addr)) = .ok (.sys addr) := by
  have hword (a : Addr) : formatA 0#4 addr = formatA 0#4 a ↔ addr = a := append_eq_append.trans (and_iff_right rfl)
  have hcls : formatA 0#4 addr ≠ 0x00E0#16 := (hword 0x0E0#12).not.2 (by simp_all [Instr.wellFormed])
  have hret : formatA 0#4 addr ≠ 0x00EE#16 := (hword 0x0EE#12).not.2 (by simp_all [Instr.wellFormed])
  simp [encode, decode, decodeGroup0, fieldN3_formatA, fieldAddr_formatA, hcls, hret]

/-- Settles O3: by the format and the group of the instruction's row, each format's fields read back what it wrote. -/
theorem decodeOfEncodeIsTheInstruction : Obligations.DecodeOfEncodeIsTheInstruction := by
  intro i hwf
  cases i with
  | cls | ret => rfl
  | sys addr => exact decode_encode_sys hwf
  | call addr => exact Machine.decode_encode_call addr
  | jp | ldI | jpV0 => simp [encode, decode, fieldN3_formatA, fieldAddr_formatA]
  | seImm | sneImm | ldImm | addImm | rnd =>
    simp [encode, decode, fieldN3_formatXK, fieldX_formatXK, fieldKk_formatXK]
  | seReg | sneReg =>
    simp [encode, decode, fieldN3_formatXYN, fieldX_formatXYN, fieldY_formatXYN, fieldN_formatXYN]
  | ldReg | orReg | andReg | xorReg | addReg | subReg | shr | subnReg | shl =>
    simp [encode, decode, decodeGroup8, fieldN3_formatXYN, fieldX_formatXYN, fieldY_formatXYN, fieldN_formatXYN]
  | skp | sknp => simp [encode, decode, decodeGroupE, fieldN3_formatXK, fieldX_formatXK, fieldKk_formatXK]
  | ldVxDt | ldVxKey | ldDtVx | ldStVx | addI | ldFont =>
    simp [encode, decode, decodeGroupF, fieldN3_formatXK, fieldX_formatXK, fieldKk_formatXK]
  | drw | ldBcd | storeRegs | loadRegs => exact Machine.decode_encode_of_indexCount rfl

/-! ### What decoding a word can answer -/

/-- The five classes of words that name no instruction (30_encoding.md R100). -/
def UnknownWord (w : Word) : Prop :=
  (fieldN3 w = 0x5#4 ∧ fieldN w ≠ 0#4) ∨
  (fieldN3 w = 0x8#4 ∧ fieldN w ∈ [0x8#4, 0x9#4, 0xA#4, 0xB#4, 0xC#4, 0xD#4, 0xF#4]) ∨
  (fieldN3 w = 0x9#4 ∧ fieldN w ≠ 0#4) ∨
  (fieldN3 w = 0xE#4 ∧ fieldKk w ∉ [0x9E#8, 0xA1#8]) ∨
  (fieldN3 w = 0xF#4 ∧ fieldKk w ∉ [0x07#8, 0x0A#8, 0x15#8, 0x18#8, 0x1E#8, 0x29#8, 0x33#8, 0x55#8, 0x65#8])

/-- What `decode` can answer on a word: a well-formed instruction whose word it is, or a rejection of an unknown word. -/
inductive DecodeOutcome (w : Word) : Except DecodeReject Instr → Prop
  | instr {i : Instr} (hwf : i.wellFormed = true) (hw : encode i = w) : DecodeOutcome w (.ok i)
  | unknown {r : DecodeReject} (hw : UnknownWord w) : DecodeOutcome w (.error r)

section
variable {w : Word} {n3 : Nibble}

theorem formatA_of_fields (h : fieldN3 w = n3) : formatA n3 (fieldAddr w) = w := by
  rw [← h, formatA_fields]

theorem formatXK_of_fields {kk : Byte} (h : fieldN3 w = n3) (hkk : fieldKk w = kk) :
    formatXK n3 (fieldX w) kk = w := by
  rw [← h, ← hkk, formatXK_fields]

theorem formatXYN_of_fields {n : Nibble} (h : fieldN3 w = n3) (hn : fieldN w = n) :
    formatXYN n3 (fieldX w) (fieldY w) n = w := by
  rw [← h, ← hn, formatXYN_fields]

end

theorem decodeGroup0_outcome {w : Word} (h : fieldN3 w = 0x0#4) : DecodeOutcome w (decodeGroup0 w) := by
  have hword : formatA 0x0#4 (fieldAddr w) = w := formatA_of_fields h
  unfold decodeGroup0
  split_ifs with hcls hret
  · exact .instr rfl hcls.symm
  · exact .instr rfl hret.symm
  · have hcls' : fieldAddr w ≠ 0x0E0#12 := fun e => hcls (by rw [← hword, e]; rfl)
    have hret' : fieldAddr w ≠ 0x0EE#12 := fun e => hret (by rw [← hword, e]; rfl)
    exact .instr (by simp [Instr.wellFormed, hcls', hret']) hword

/-- The last nibble of group 8 is that of one of its nine instructions, or of an unknown word. -/
theorem nibble_of_group8 : ∀ n : Nibble, n.toNat ∈ [0, 1, 2, 3, 4, 5, 6, 7, 14] ∨
    n ∈ [0x8#4, 0x9#4, 0xA#4, 0xB#4, 0xC#4, 0xD#4, 0xF#4] := by
  decide

theorem decodeGroup8_outcome {w : Word} (h : fieldN3 w = 0x8#4) : DecodeOutcome w (decodeGroup8 w) := by
  have hword {k : Nat} (hk : (fieldN w).toNat = k) :
      formatXYN 0x8#4 (fieldX w) (fieldY w) (BitVec.ofNat 4 k) = w :=
    formatXYN_of_fields h (by simp [← hk])
  unfold decodeGroup8
  split
  case h_10 => exact .unknown (.inr (.inl ⟨h, (nibble_of_group8 (fieldN w)).resolve_left (by simp_all)⟩))
  all_goals exact .instr rfl (hword ‹_›)

theorem decodeGroupE_outcome {w : Word} (h : fieldN3 w = 0xE#4) : DecodeOutcome w (decodeGroupE w) := by
  unfold decodeGroupE
  split_ifs with hskp hsknp
  · exact .instr rfl (formatXK_of_fields h hskp)
  · exact .instr rfl (formatXK_of_fields h hsknp)
  · exact .unknown (.inr (.inr (.inr (.inl ⟨h, by simp [hskp, hsknp]⟩))))

theorem decodeGroupF_outcome {w : Word} (h : fieldN3 w = 0xF#4) : DecodeOutcome w (decodeGroupF w) := by
  unfold decodeGroupF
  split_ifs
  case neg => exact .unknown (.inr (.inr (.inr (.inr ⟨h, by simp [*]⟩))))
  all_goals exact .instr rfl (formatXK_of_fields h ‹_›)

/-- The groups 5 and 9: one instruction with the last nibble 0 (30_encoding.md R98). -/
theorem decodeExact_outcome {w : Word} {i : Instr} {r : DecodeReject} (hwf : i.wellFormed = true)
    (hw : fieldN w = 0#4 → encode i = w) (hu : fieldN w ≠ 0#4 → UnknownWord w) :
    DecodeOutcome w (if fieldN w = 0#4 then .ok i else .error r) := by
  split_ifs with hn
  · exact .instr hwf (hw hn)
  · exact .unknown (hu hn)

/-- Every word falls under one case: the leading nibble picks the group, the format's fields rebuild the word. -/
theorem decode_outcome (w : Word) : DecodeOutcome w (decode w) := by
  have hn3 {k : Nat} (hk : (fieldN3 w).toNat = k) : fieldN3 w = BitVec.ofNat 4 k := by simp [← hk]
  unfold decode
  split
  case h_1 h => exact decodeGroup0_outcome (hn3 h)
  case h_2 h | h_3 h | h_11 h | h_12 h => exact .instr rfl (formatA_of_fields (hn3 h))
  case h_4 h | h_5 h | h_7 h | h_8 h | h_13 h => exact .instr rfl (formatXK_of_fields (hn3 h) rfl)
  case h_6 h => exact decodeExact_outcome rfl (formatXYN_of_fields (hn3 h)) fun hn => .inl ⟨hn3 h, hn⟩
  case h_10 h => exact decodeExact_outcome rfl (formatXYN_of_fields (hn3 h)) fun hn => .inr (.inr (.inl ⟨hn3 h, hn⟩))
  case h_9 h => exact decodeGroup8_outcome (hn3 h)
  case h_14 h => exact .instr rfl (formatXYN_of_fields (hn3 h) rfl)
  case h_15 h => exact decodeGroupE_outcome (hn3 h)
  case h_16 =>
    have hlt : (fieldN3 w).toNat < 2 ^ 4 := (fieldN3 w).isLt
    have hF : (fieldN3 w).toNat = 15 := by simp only [imp_false] at *; omega
    exact decodeGroupF_outcome (hn3 hF)

/-- The inversion of an accepted word. -/
theorem encode_of_decode {w : Word} {i : Instr} (h : decode w = .ok i) : i.wellFormed = true ∧ encode i = w := by
  have ho := decode_outcome w
  rw [h] at ho
  cases ho with
  | instr hwf hw => exact ⟨hwf, hw⟩

/-- The inversion of a rejected word. -/
theorem unknownWord_of_decode {w : Word} {r : DecodeReject} (h : decode w = .error r) : UnknownWord w := by
  have ho := decode_outcome w
  rw [h] at ho
  cases ho with
  | unknown hw => exact hw

/-- The decoder rejects each of the five classes, by its own name for the group. -/
theorem decode_of_unknownWord {w : Word} (h : UnknownWord w) : ∃ r, decode w = .error r := by
  obtain ⟨h3, hn⟩ | ⟨h3, hn⟩ | ⟨h3, hn⟩ | ⟨h3, hkk⟩ | ⟨h3, hkk⟩ := h
  · exact ⟨.unknownGroup5 w, by simp [decode, h3, hn]⟩
  · refine ⟨.unknownGroup8 w, ?_⟩
    simp only [List.mem_cons, List.not_mem_nil, or_false] at hn
    rcases hn with hn | hn | hn | hn | hn | hn | hn <;> simp [decode, h3, decodeGroup8, hn]
  · exact ⟨.unknownGroup9 w, by simp [decode, h3, hn]⟩
  · exact ⟨.unknownGroupE w, by simp_all [decode, decodeGroupE]⟩
  · exact ⟨.unknownGroupF w, by simp_all [decode, decodeGroupF]⟩

/-- Settles O4: read off `decode_outcome`. -/
theorem encodeOfDecodeIsTheWord : Obligations.EncodeOfDecodeIsTheWord := fun _ _ => encode_of_decode

/-- Settles O6: `decode_outcome` in one direction, the equations of `decode` on each class in the other. -/
theorem unknownWordsAreTheFiveClasses : Obligations.UnknownWordsAreTheFiveClasses := fun _ =>
  ⟨fun ⟨_, h⟩ => unknownWord_of_decode h, decode_of_unknownWord⟩

/-- Settles O7: the decoder runs on each of the eight words. -/
theorem writtenOutWordsDecode : Obligations.WrittenOutWordsDecode :=
  ⟨rfl, rfl, rfl, rfl, rfl, rfl, rfl, rfl⟩

/-! ### The opcode map -/

/-- Every instruction has a row of the opcode map, which selects its word. -/
theorem exists_row_of_instr (i : Instr) : Laws.FixedBits.Statement i := by
  cases i with
  | cls => exact Laws.FixedBits.cls
  | ret => exact Laws.FixedBits.ret
  | sys addr => exact Laws.FixedBits.sys addr
  | jp addr => exact Laws.FixedBits.jp addr
  | call addr => exact Laws.FixedBits.call addr
  | seImm x kk => exact Laws.FixedBits.seImm x kk
  | sneImm x kk => exact Laws.FixedBits.sneImm x kk
  | seReg x y => exact Laws.FixedBits.seReg x y
  | ldImm x kk => exact Laws.FixedBits.ldImm x kk
  | addImm x kk => exact Laws.FixedBits.addImm x kk
  | ldReg x y => exact Laws.FixedBits.ldReg x y
  | orReg x y => exact Laws.FixedBits.orReg x y
  | andReg x y => exact Laws.FixedBits.andReg x y
  | xorReg x y => exact Laws.FixedBits.xorReg x y
  | addReg x y => exact Laws.FixedBits.addReg x y
  | subReg x y => exact Laws.FixedBits.subReg x y
  | shr x y => exact Laws.FixedBits.shr x y
  | subnReg x y => exact Laws.FixedBits.subnReg x y
  | shl x y => exact Laws.FixedBits.shl x y
  | sneReg x y => exact Laws.FixedBits.sneReg x y
  | ldI addr => exact Laws.FixedBits.ldI addr
  | jpV0 addr => exact Laws.FixedBits.jpV0 addr
  | rnd x kk => exact Laws.FixedBits.rnd x kk
  | drw x y n => exact Laws.FixedBits.drw x y n
  | skp x => exact Laws.FixedBits.skp x
  | sknp x => exact Laws.FixedBits.sknp x
  | ldVxDt x => exact Laws.FixedBits.ldVxDt x
  | ldVxKey x => exact Laws.FixedBits.ldVxKey x
  | ldDtVx x => exact Laws.FixedBits.ldDtVx x
  | ldStVx x => exact Laws.FixedBits.ldStVx x
  | addI x => exact Laws.FixedBits.addI x
  | ldFont x => exact Laws.FixedBits.ldFont x
  | ldBcd x => exact Laws.FixedBits.ldBcd x
  | storeRegs x => exact Laws.FixedBits.storeRegs x
  | loadRegs x => exact Laws.FixedBits.loadRegs x

section
variable {r q : OpcodeRow} {w : Word}

theorem OpcodeRow.selects_iff : r.selects w = true ↔ w &&& r.mask = r.fixed := beq_iff_eq

/-- Two rows that select one word agree on the bits that both masks read. -/
theorem OpcodeRow.agree_of_selects (hr : r.selects w = true) (hq : q.selects w = true) :
    r.fixed &&& q.mask = q.fixed &&& r.mask := by
  rw [← selects_iff.1 hr, ← selects_iff.1 hq, BitVec.and_assoc, BitVec.and_assoc, BitVec.and_comm r.mask]

/-- Only `CLS` and `RET` with `SYS` agree on the bits that both masks read (30_encoding.md R93). -/
theorem opcodeRows_agree : ∀ r ∈ opcodeRows, ∀ q ∈ opcodeRows, r.row < q.row →
    r.fixed &&& q.mask = q.fixed &&& r.mask → (r.row = 1 ∨ r.row = 2) ∧ q.row = 3 := by
  decide

theorem opcodeRows_overlap (hr : r ∈ opcodeRows) (hq : q ∈ opcodeRows) (hlt : r.row < q.row)
    (hrs : r.selects w = true) (hqs : q.selects w = true) : (r.row = 1 ∨ r.row = 2) ∧ q.row = 3 :=
  opcodeRows_agree r hr q hq hlt (OpcodeRow.agree_of_selects hrs hqs)

theorem opcodeRows_sorted : opcodeRows.Pairwise (·.row < ·.row) := by decide

/-- The first row that selects a word is the one with the least number. -/
theorem firstRow_eq_some (hr : r ∈ opcodeRows) (hs : r.selects w = true)
    (hmin : ∀ q ∈ opcodeRows, q.row < r.row → q.selects w = false) : firstRow w = some r.row := by
  obtain ⟨before, after, hrows⟩ := List.append_of_mem hr
  have hsorted := opcodeRows_sorted
  rw [hrows, List.pairwise_append] at hsorted
  obtain ⟨-, -, hlt⟩ := hsorted
  have hfind : opcodeRows.find? (·.selects w) = some r := by
    refine List.find?_eq_some_iff_append.2 ⟨hs, before, after, hrows, fun q hq => ?_⟩
    rw [hmin q (by simp [hrows, hq]) (hlt q hq r (by simp)), Bool.not_false]
  simp [firstRow, hfind]

/-- Rows 1 and 2 select one word each, which decodes to the row's instruction. -/
theorem opcodeRows_wholeWord : ∀ q ∈ opcodeRows, q.row = 1 ∨ q.row = 2 →
    q.mask = BitVec.allOnes 16 ∧ (decode q.fixed).map Instr.row = .ok q.row := by
  decide

theorem firstRow_of_decode {i : Instr} (h : decode w = .ok i) : firstRow w = some i.row := by
  obtain ⟨r, hr, hrow, hsel⟩ := exists_row_of_instr i
  rw [(encode_of_decode h).2] at hsel
  rw [← hrow]
  refine firstRow_eq_some hr hsel fun q hq hlt => ?_
  by_contra hqs
  rw [Bool.not_eq_false] at hqs
  obtain ⟨hq12, hr3⟩ := opcodeRows_overlap hq hr hlt hqs hsel
  obtain ⟨hmask, hdec⟩ := opcodeRows_wholeWord q hq hq12
  have hw : w = q.fixed := by rw [← OpcodeRow.selects_iff.1 hqs, hmask, BitVec.and_allOnes]
  rw [← hw, h] at hdec
  have hrq : i.row = q.row := by simpa [Except.map] using hdec
  omega

/-- The fields of a word that a row selects, under the row's mask. -/
theorem OpcodeRow.fields_of_selects (h : r.selects w = true) :
    fieldN3 w &&& fieldN3 r.mask = fieldN3 r.fixed ∧ fieldN w &&& fieldN r.mask = fieldN r.fixed ∧
    fieldKk w &&& fieldKk r.mask = fieldKk r.fixed := by
  rw [← selects_iff.1 h]
  simp [fieldN3, fieldN, fieldKk, BitVec.extractLsb'_and]

/-- The mask of every row reads the whole leading nibble. -/
theorem opcodeRows_mask_n3 : ∀ r ∈ opcodeRows, fieldN3 r.mask = 15#4 := by decide

/-- The rows of the groups 5, 8 and 9 read the last nibble too. -/
theorem opcodeRows_mask_n : ∀ r ∈ opcodeRows, fieldN3 r.fixed ∈ [0x5#4, 0x8#4, 0x9#4] → fieldN r.mask = 15#4 := by
  decide

/-- The rows of the groups E and F read the low byte too. -/
theorem opcodeRows_mask_kk : ∀ r ∈ opcodeRows, fieldN3 r.fixed ∈ [0xE#4, 0xF#4] → fieldKk r.mask = 255#8 := by
  decide

/-- No row's own `match` word is unknown. -/
theorem opcodeRows_fixed_known : ∀ r ∈ opcodeRows, ¬ UnknownWord r.fixed := by
  unfold UnknownWord
  decide

/-- A row that selects a word reads every field that tells whether the word is unknown. -/
theorem not_unknownWord_of_selects (hr : r ∈ opcodeRows) (hs : r.selects w = true) : ¬ UnknownWord w := by
  intro hu
  obtain ⟨hn3, hn, hkk⟩ := OpcodeRow.fields_of_selects hs
  rw [opcodeRows_mask_n3 r hr, Laws.nibble_and_ones] at hn3
  have hn' (h : fieldN3 r.fixed ∈ [0x5#4, 0x8#4, 0x9#4]) : fieldN w = fieldN r.fixed := by
    rw [← hn, opcodeRows_mask_n r hr h, Laws.nibble_and_ones]
  have hkk' (h : fieldN3 r.fixed ∈ [0xE#4, 0xF#4]) : fieldKk w = fieldKk r.fixed := by
    rw [← hkk, opcodeRows_mask_kk r hr h, Laws.byte_and_ones]
  refine opcodeRows_fixed_known r hr ?_
  unfold UnknownWord at hu ⊢
  rw [hn3] at hu
  obtain ⟨h, hf⟩ | ⟨h, hf⟩ | ⟨h, hf⟩ | ⟨h, hf⟩ | ⟨h, hf⟩ := hu
  · exact .inl ⟨h, hn' (by simp [h]) ▸ hf⟩
  · exact .inr (.inl ⟨h, hn' (by simp [h]) ▸ hf⟩)
  · exact .inr (.inr (.inl ⟨h, hn' (by simp [h]) ▸ hf⟩))
  · exact .inr (.inr (.inr (.inl ⟨h, hkk' (by simp [h]) ▸ hf⟩)))
  · exact .inr (.inr (.inr (.inr ⟨h, hkk' (by simp [h]) ▸ hf⟩)))

theorem firstRow_of_unknownWord (h : UnknownWord w) : firstRow w = none := by
  rw [firstRow, Option.map_eq_none_iff, List.find?_eq_none]
  exact fun r hr hs => not_unknownWord_of_selects hr hs h

end

/-- Settles O5: a decoded word is selected by its instruction's row and by no earlier one, an unknown word by none. -/
theorem decoderTakesTheFirstMatchingRow : Obligations.DecoderTakesTheFirstMatchingRow := by
  refine ⟨fun w => ?_, fun w r q => opcodeRows_overlap⟩
  cases h : decode w with
  | ok i => exact firstRow_of_decode h
  | error e => exact firstRow_of_unknownWord (unknownWord_of_decode h)

/-! ### The cycle of an unknown word -/

namespace Machine

/-- 30_encoding.md R99: the advance of `PC` and the tick. -/
theorem step_of_unknown {s : State} {w : Word} {r : DecodeReject} (hf : s.faulted = false)
    (hw : s.fetchWord = some w) (hd : decode w = .error r) : step s = .next s.advancePc.tick := by
  have hend : s.advancePc.endCycle = s.advancePc.tick := State.endCycle_of_not_faulted hf
  simp [step, hf, hw, hd, finishCycle, State.skipUnknown, hend]

/-- Advancing `PC` and ticking touch `PC`, `DT` and `ST` alone. -/
theorem advancePc_tick_frame (s : State) : ChangesOnly (· ∈ [.pc, .dt, .st]) s s.advancePc.tick := by
  intro p hp
  cases p with
  | pc | dt | st => simp at hp
  | _ => rfl

/-- Settles O9: the cycle is the advance of `PC` and the tick. -/
theorem unknownEncodingIsASilentNoOp : Obligations.UnknownEncodingIsASilentNoOp := fun s _ _ hf hw hd =>
  ⟨_, step_of_unknown hf hw hd, rfl, State.countDown_toNat s.dt, State.countDown_toNat s.st, advancePc_tick_frame s⟩

end Machine
end Sys2Proof
end

section
/-! SUPPORT. The control-flow instructions (40_control_flow.md): the frame of each operation they are made of, `CALL` and
`RET` by the stack pointer, and the statements read off them. -/

namespace Sys2Proof.Machine

/-! ### What the operations of control flow leave unchanged -/

theorem Part.same_refl (p : Part) (s : State) : p.same s s := by
  cases p <;> rfl

namespace State

theorem setPc_frame (s : State) (w : Word) : ChangesOnly (· = .pc) s (s.setPc w) := by
  intro p hp
  cases p with
  | pc => exact absurd rfl hp
  | _ => rfl

theorem skipIf_frame (s : State) (c : Bool) : ChangesOnly (· = .pc) s (s.skipIf c) := by
  cases c with
  | true => exact s.setPc_frame _
  | false => exact fun p _ => p.same_refl s

/-- Taking a fault undoes the fetch advance and writes `FAULT` (60_exceptions.md R244). -/
theorem raiseAt_frame (s : State) (c : FaultCause) (i : Instr) (a : Word) :
    ChangesOnly (· ∈ [Part.pc, Part.fault]) s (s.raiseAt c i a) := by
  intro p hp
  cases p with
  | pc | fault => simp at hp
  | _ => rfl

/-- A push writes the one stack entry at `SP` (40_control_flow.md R121). -/
theorem push_setPc_frame {s : State} {k : Fin 16} (hk : k.val = s.sp.val) (ret target : Word) :
    ChangesOnly (· ∈ [Part.pc, Part.sp, Part.stack k]) s ((s.push ret).setPc target) := by
  intro p hp
  cases p with
  | pc | sp => simp at hp
  | stack j =>
    have hj : j.val ≠ s.sp.val := fun e => hp (by simp [Fin.ext (e.trans hk.symm)])
    exact (s.stack_push ret j).trans (if_neg hj)
  | _ => rfl

/-- A pop leaves the entry in the stack (40_control_flow.md R122). -/
theorem pop_setPc_frame (s : State) (target : Word) :
    ChangesOnly (· ∈ [Part.pc, Part.sp]) s (s.pop.setPc target) := by
  intro p hp
  cases p with
  | pc | sp => simp at hp
  | _ => rfl

theorem topOfStack_eq {s : State} {k : Fin 16} (hk : k.val + 1 = s.sp.val) : s.topOfStack = s.stack[k.val] := by
  simp only [topOfStack, ← hk, Nat.add_sub_cancel]

end State

/-! ### `CALL` and `RET` by the stack pointer -/

section
variable {s : State}

theorem exec_call_of_room {addr : Addr} (h : s.sp.val ≠ 16) :
    exec (.call addr) s = .next ((s.push s.pc).setPc (absoluteTarget addr)) := if_neg h

theorem exec_call_of_full {addr : Addr} (h : s.sp = 16) :
    exec (.call addr) s = .next (s.raiseAt .stackOverflow (.call addr) 0#16) := if_pos (by simp [h])

theorem exec_ret_of_pending (h : s.sp.val ≠ 0) : exec .ret s = .next (s.pop.setPc s.topOfStack) := if_neg h

theorem exec_ret_of_empty (h : s.sp = 0) : exec .ret s = .next (s.raiseAt .stackUnderflow .ret 0#16) :=
  if_pos (by simp [h])

end

/-! ### The target of `JP V0` -/

/-- The largest sum, 0xFFF + 0xFF, fits in 16 bits (40_control_flow.md R127). -/
theorem indexedTarget_toNat (addr : Addr) (b : Byte) : (indexedTarget addr b).toNat = addr.toNat + b.toNat := by
  have := addr.isLt
  have := b.isLt
  simp [indexedTarget]; omega

/-! ### The statements -/

/-- Settles O26: a push and a jump with room on the stack, a fault on a full one. -/
theorem callPushesTheReturnAddress : Obligations.CallPushesTheReturnAddress := by
  intro addr s
  refine ⟨fun k hk => ?_, fun hsp => ?_⟩
  · have hroom : s.sp.val ≠ 16 := by omega
    exact ⟨_, exec_call_of_room hroom, (s.stack_push s.pc k).trans (if_pos hk), State.push_sp_val hroom s.pc, rfl,
      State.push_setPc_frame hk _ _⟩
  · exact ⟨_, exec_call_of_full hsp, rfl, rfl, s.raiseAt_frame _ _ _⟩

/-- Settles O27: a pop into `PC` with a call pending, a fault on an empty stack. -/
theorem returnPopsIntoPc : Obligations.ReturnPopsIntoPc := by
  intro s
  refine ⟨fun k hk => ?_, fun hsp => ?_⟩
  · have hsp : s.pop.sp.val = k.val := by rw [State.pop_sp_val]; omega
    exact ⟨_, exec_ret_of_pending (by omega), State.topOfStack_eq hk, hsp, s.pop_setPc_frame _⟩
  · exact ⟨_, exec_ret_of_empty hsp, rfl, rfl, s.raiseAt_frame _ _ _⟩

/-- Settles O28: the `RET` pops the entry at the `SP` before the `CALL`, which the `CALL` pushed. -/
theorem returnComesBackToTheCall : Obligations.ReturnComesBackToTheCall := by
  intro addr s t p hsp hcall
  let k : Fin 16 := ⟨s.sp.val, by omega⟩
  obtain ⟨t', hcall', hentry, hsp', -, -⟩ := (callPushesTheReturnAddress addr s).1 k rfl
  cases hcall.symm.trans hcall'
  obtain ⟨u, hret, hpc, hspu, -⟩ := (returnPopsIntoPc (t.setPc p)).1 k hsp'.symm
  exact ⟨u, hret, hpc.trans hentry, Fin.ext hspu⟩

/-- Settles O24: the meaning of `JP` is `setPc`. -/
theorem jumpSetsPc : Obligations.JumpSetsPc := fun _ s => ⟨_, rfl, rfl, s.setPc_frame _⟩

/-- Settles O25: the 16-bit sum of a 12-bit address and a byte does not wrap. -/
theorem indexedJumpAddsV0 : Obligations.IndexedJumpAddsV0 := fun addr s =>
  ⟨_, rfl, indexedTarget_toNat addr (s.getV 0), s.setPc_frame _⟩

/-- Settles O29: each skip is `skipIf` of its condition. -/
theorem skipsAdvancePcOnTheirCondition : Obligations.SkipsAdvancePcOnTheirCondition := by
  intro x y kk s
  refine ⟨⟨_, rfl, ?_, s.skipIf_frame _⟩, ⟨_, rfl, ?_, s.skipIf_frame _⟩, ⟨_, rfl, ?_, s.skipIf_frame _⟩,
    ⟨_, rfl, ?_, s.skipIf_frame _⟩⟩ <;> simp only [State.skipIf_pc, beq_iff_eq, bne_iff_ne]

/-- Settles O30: the meaning of `SYS` answers its own state. -/
theorem sysDoesNothing : Obligations.SysDoesNothing := fun _ _ => rfl

end Sys2Proof.Machine
end

section
/-! SUPPORT. The register loads, the arithmetic and the logic (41_load_arith.md): the frame of a register write and of a
result with its flag, the byte computations as numbers, and the statements read off them. -/

namespace Sys2Proof.Machine

/-! ### A register write, and a result write with its flag -/

namespace State

theorem setV_frame (s : State) (x : Reg) (b : Byte) : ChangesOnly (· = .v x) s (s.setV x b) := by
  intro p hp
  cases p with
  | v k => exact s.getV_setV_ne x k b fun hk => hp (congrArg Part.v hk)
  | _ => rfl

/-- A flag writer touches its destination and `VF` alone (10_state.md R27). -/
theorem writeResult_frame (s : State) (x : Reg) (r : Byte) (f : Bool) :
    ChangesOnly (· ∈ [Part.v x, Part.v 15]) s (s.writeResult x r f) := by
  intro p hp
  cases p with
  | v k =>
    obtain ⟨hx, hvf⟩ : k ≠ x ∧ k ≠ 15 := by simpa using hp
    exact (s.getV_writeResult x k r f).trans (by rw [if_neg hvf, if_neg hx])
  | _ => rfl

/-- The flag overwrites the result when `x` = 15 (10_state.md R29, D5). -/
theorem getV_writeResult_vf (s : State) (x : Reg) (r : Byte) (f : Bool) :
    (s.writeResult x r f).getV 15 = flagByte f := by
  rw [getV_writeResult, if_pos rfl]

theorem getV_writeResult_dest (s : State) {x : Reg} (hx : x ≠ 15) (r : Byte) (f : Bool) :
    (s.writeResult x r f).getV x = r := by
  rw [getV_writeResult, if_neg hx, if_pos rfl]

end State

/-! ### The byte computations as numbers -/

theorem flagByte_decide (p : Prop) [Decidable p] : flagByte (decide p) = if p then 1#8 else 0#8 := by
  simp only [flagByte, decide_eq_true_eq]

theorem sumByte_toNat (a b : Byte) : (sumByte a b).toNat = (a.toNat + b.toNat) % 256 := BitVec.toNat_ofNat _ 8

/-- The 256 that `differenceByte` adds to stay in the naturals is lost modulo 256. -/
theorem differenceByte_toNat (a b : Byte) : ((differenceByte a b).toNat : Int) = (a.toNat - b.toNat) % 256 := by
  have hb : b.toNat < 256 := b.isLt
  have h : (differenceByte a b).toNat = (a.toNat + 256 - b.toNat) % 256 := BitVec.toNat_ofNat _ 8
  omega

/-! ### The three shapes of instruction: a load, an addition, a subtraction -/

section
variable {i : Instr} {s : State} {x : Reg} {a b : Byte}

theorem exec_load (h : exec i s = .next (s.setV x b)) :
    ∃ t, exec i s = .next t ∧ t.getV x = b ∧ ChangesOnly (· = .v x) s t :=
  ⟨_, h, s.getV_setV_same x b, s.setV_frame x b⟩

theorem exec_addition (h : exec i s = .next (s.writeResult x (sumByte a b) (carryFlag a b))) :
    ∃ t, exec i s = .next t ∧ ChangesOnly (· ∈ [Part.v x, Part.v 15]) s t ∧
      (x ≠ 15 → (t.getV x).toNat = (a.toNat + b.toNat) % 256) ∧
      t.getV 15 = if a.toNat + b.toNat > 255 then 1#8 else 0#8 := by
  refine ⟨_, h, s.writeResult_frame _ _ _, fun hx => ?_, ?_⟩
  · rw [s.getV_writeResult_dest hx, sumByte_toNat]
  · rw [s.getV_writeResult_vf, carryFlag, flagByte_decide]

theorem exec_subtraction (h : exec i s = .next (s.writeResult x (differenceByte a b) (noBorrowFlag a b))) :
    ∃ t, exec i s = .next t ∧ ChangesOnly (· ∈ [Part.v x, Part.v 15]) s t ∧
      (x ≠ 15 → ((t.getV x).toNat : Int) = (a.toNat - b.toNat) % 256) ∧
      t.getV 15 = if a.toNat ≥ b.toNat then 1#8 else 0#8 := by
  refine ⟨_, h, s.writeResult_frame _ _ _, fun hx => ?_, ?_⟩
  · rw [s.getV_writeResult_dest hx, differenceByte_toNat]
  · rw [s.getV_writeResult_vf, noBorrowFlag, flagByte_decide]

end

/-! ### The statements -/

/-- Settles O33: both additions are `exec_addition`, of an immediate and of a register. -/
theorem additionsWrapAndSetCarry : Obligations.AdditionsWrapAndSetCarry := fun _ _ _ _ =>
  ⟨exec_addition rfl, exec_addition rfl⟩

/-- Settles O34: `SUB` and `SUBN` are `exec_subtraction` with the operands exchanged. -/
theorem subtractionsWrapAndSetNoBorrow : Obligations.SubtractionsWrapAndSetNoBorrow := fun _ _ _ =>
  ⟨exec_subtraction rfl, exec_subtraction rfl⟩

/-- Settles O31: both loads are `exec_load`. -/
theorem plainLoadsAreExact : Obligations.PlainLoadsAreExact := fun _ _ _ _ => ⟨exec_load rfl, exec_load rfl⟩

/-- Settles O32: each writes the bitwise combination into `V[x]` by `setV`. -/
theorem bitwiseOperationsCombineInPlace : Obligations.BitwiseOperationsCombineInPlace := by
  intro x y s
  refine ⟨⟨_, rfl, s.setV_frame x _, fun j _ => ?_⟩, ⟨_, rfl, s.setV_frame x _, fun j _ => ?_⟩,
    ⟨_, rfl, s.setV_frame x _, fun j _ => ?_⟩⟩
  · rw [State.getV_setV_same, BitVec.getLsbD_or]
  · rw [State.getV_setV_same, BitVec.getLsbD_and]
  · rw [State.getV_setV_same, BitVec.getLsbD_xor]

end Sys2Proof.Machine
end

section
/-! SUPPORT. The shifts and the random byte (42_shift_random.md): the shifted byte and the bit shifted out as numbers,
the frame of a draw, and the statements read off them. -/

namespace Sys2Proof.Machine

/-! ### The shifted byte and the lost bit as numbers -/

theorem flagByte_toNat (f : Bool) : (flagByte f).toNat = f.toNat := by
  cases f <;> rfl

theorem shiftRightByte_toNat (a : Byte) : (shiftRightByte a).toNat = a.toNat / 2 := by
  have ha : a.toNat < 256 := a.isLt
  have h : (shiftRightByte a).toNat = a.toNat / 2 % 256 := BitVec.toNat_ofNat _ 8
  omega

theorem shiftLeftByte_toNat (a : Byte) : (shiftLeftByte a).toNat = a.toNat * 2 % 256 := by
  rw [Nat.mul_comm]
  exact BitVec.toNat_ofNat _ 8

theorem shiftRightFlag_toNat (a : Byte) : (shiftRightFlag a).toNat = a.toNat % 2 := by
  have h : (shiftRightFlag a).toNat = a.toNat / 2 ^ 0 % 2 := Nat.toNat_testBit a.toNat 0
  omega

/-- Bit 7 is the top bit of a byte, so the quotient by 128 is already 0 or 1. -/
theorem shiftLeftFlag_toNat (a : Byte) : (shiftLeftFlag a).toNat = a.toNat / 128 := by
  have ha : a.toNat < 256 := a.isLt
  have h : (shiftLeftFlag a).toNat = a.toNat / 2 ^ 7 % 2 := Nat.toNat_testBit a.toNat 7
  omega

/-! ### A result with its flag, and a draw -/

/-- An instruction that writes a result and its flag, both read as numbers. -/
theorem exec_writeResult {i : Instr} {s : State} {x : Reg} {r : Byte} {f : Bool} {m n : Nat} (hr : r.toNat = m)
    (hf : f.toNat = n) (h : exec i s = .next (s.writeResult x r f)) :
    ∃ t, exec i s = .next t ∧ ChangesOnly (· ∈ [Part.v x, Part.v 15]) s t ∧
      (x ≠ 15 → (t.getV x).toNat = m) ∧ (t.getV 15).toNat = n := by
  refine ⟨_, h, s.writeResult_frame _ _ _, fun hx => ?_, ?_⟩
  · rw [s.getV_writeResult_dest hx, hr]
  · rw [s.getV_writeResult_vf, flagByte_toNat, hf]

/-- Storing the byte drawn touches its destination and the counter of draws alone. -/
theorem State.countDraw_setV_frame (s : State) (x : Reg) (b : Byte) :
    ChangesOnly (· ∈ [Part.v x, Part.draws]) s (s.countDraw.setV x b) := by
  intro p hp
  cases p with
  | v k => exact s.countDraw.getV_setV_ne x k b (by simpa using hp)
  | draws => simp at hp
  | _ => rfl

/-! ### The statements -/

/-- Settles O35: each shift is `exec_writeResult` with its byte and its lost bit. -/
theorem shiftsPutTheLostBitInVf : Obligations.ShiftsPutTheLostBitInVf := fun _ _ _ =>
  ⟨exec_writeResult (shiftRightByte_toNat _) (shiftRightFlag_toNat _) rfl,
    exec_writeResult (shiftLeftByte_toNat _) (shiftLeftFlag_toNat _) rfl⟩

/-- Settles O36: the byte drawn under the mask is written by `setV`, and a bit that is 0 in the mask stays 0. -/
theorem randomByteIsMasked : Obligations.RandomByteIsMasked := by
  intro x kk s
  have hv : (s.countDraw.setV x (s.randomByte &&& kk)).getV x = Config.rndIn s.draws &&& kk :=
    s.countDraw.getV_setV_same x _
  refine ⟨_, rfl, s.countDraw_setV_frame x _, rfl, hv, fun j hj => ?_⟩
  rw [hv, BitVec.getLsbD_and, hj, Bool.and_false]

end Sys2Proof.Machine
end

section
/-! SUPPORT. The index register and the memory blocks (43_index_memory.md): the glyph pointer and the decimal digits as
numbers, the frames of a write of `I`, of a store through `I` and of a block load, and the statements read off them. -/

namespace Sys2Proof.Machine

/-! ### The glyph pointer and the decimal digits as numbers -/

theorem lowNibble_val (b : Byte) : (lowNibble b).val = b.toNat % 16 := by
  simp [lowNibble]

/-- The table of glyphs is 80 bytes long, so a pointer into it does not wrap where the table itself does not
(43_index_memory.md R172). -/
theorem glyphAddress_toNat {fontBase : Word} (hbase : fontBase.toNat + 80 ≤ 65536) (b : Byte) :
    (glyphAddress fontBase b).toNat = fontBase.toNat + 5 * (b.toNat % 16) := by
  rw [glyphAddress, Config.glyphHeight, lowNibble_val, BitVec.toNat_add, BitVec.toNat_ofNat]
  omega

theorem hundredsDigit_toNat (b : Byte) : (hundredsDigit b).toNat = b.toNat / 100 := by
  have hb : b.toNat < 256 := b.isLt
  have h : (hundredsDigit b).toNat = b.toNat / 100 % 256 := BitVec.toNat_ofNat _ 8
  omega

theorem tensDigit_toNat (b : Byte) : (tensDigit b).toNat = b.toNat / 10 % 10 := by
  have h : (tensDigit b).toNat = b.toNat / 10 % 10 % 256 := BitVec.toNat_ofNat _ 8
  omega

theorem unitsDigit_toNat (b : Byte) : (unitsDigit b).toNat = b.toNat % 10 := by
  have h : (unitsDigit b).toNat = b.toNat % 10 % 256 := BitVec.toNat_ofNat _ 8
  omega

/-! ### A write of `I`, a store through `I`, a block of registers -/

namespace State

theorem setI_frame (s : State) (a : Word) : ChangesOnly (· = .i) s (s.setI a) := by
  intro p hp
  cases p with
  | i => exact absurd rfl hp
  | _ => rfl

/-- The base of an access depends on `I` alone (20_memory.md R64). -/
theorem indexBase_congr {s t : State} (h : t.i = s.i) : t.indexBase = s.indexBase := by
  simp only [indexBase, h]

/-- A store through `I` touches its own bytes alone, `I` not among them (43_index_memory.md R176, D8). -/
theorem writeBytes_indexBase_frame {s : State} {bytes : List Byte} {n : Nat} (hlen : bytes.length = n)
    (hr : s.indexBase + n ≤ 4096) :
    ChangesOnly (fun p => ∃ a, p = .mem a ∧ s.inIndexRange n a) s (s.writeBytes s.indexBase bytes) := by
  subst hlen
  intro p hp
  cases p with
  | mem a =>
    have ha : ¬ s.inIndexRange bytes.length a := fun ha => hp ⟨a, rfl, ha⟩
    refine (s.readByte_writeBytes _ _ hr a).trans ?_
    by_cases hlo : s.indexBase ≤ a.toNat
    · have hhi : s.indexBase + bytes.length ≤ a.toNat := Nat.le_of_not_lt fun hhi => ha ⟨hlo, hhi⟩
      rw [if_pos hlo, List.getD_eq_default _ _ (by omega)]
    · exact if_neg hlo
  | _ => rw [writeBytes_eq]; rfl

/-- The number stored at an offset inside the stored bytes (20_memory.md R62, R64). -/
theorem readByte_writeBytes_offset_toNat (s : State) {base k m : Nat} {bytes : List Byte}
    (hbase : base + bytes.length ≤ 4096) (hk : k < bytes.length) (hm : bytes[k].toNat = m) :
    ((s.writeBytes base bytes).readByte (BitVec.ofNat 12 (base + k))).toNat = m := by
  rw [s.readByte_writeBytes_offset hbase hk, hm]

/-- Registers that agree above `x` differ from the old ones in `V0` to `Vx` alone. -/
theorem registerBlock_frame {s : State} {x : Reg} {v : Vector Byte 16}
    (hv : ∀ k : Reg, ¬ k ≤ x → v[k.val] = s.getV k) :
    ChangesOnly (fun p => ∃ k : Reg, p = .v k ∧ k ≤ x) s { s with v := v } := by
  intro p hp
  cases p with
  | v k => exact hv k fun hk => hp ⟨k, rfl, hk⟩
  | _ => rfl

end State

/-! ### The stores in range -/

/-- `LD B` in range has its effect (43_index_memory.md R173). -/
theorem exec_ldBcd_of_inRange {x : Reg} {s : State} (hr : s.indexBase + 2 ≤ 0xFFF) :
    exec (.ldBcd x) s = .next (s.writeBytes s.indexBase
      [hundredsDigit (s.getV x), tensDigit (s.getV x), unitsDigit (s.getV x)]) :=
  withIndexRange_ok ((s.rangeOk_iff 3).2 (by omega))

/-- A block store in range leaves `I` as it was (43_index_memory.md R176, D8). -/
theorem i_of_exec_storeRegs {x : Reg} {s t : State} (hr : s.indexBase + x.val ≤ 0xFFF)
    (h : exec (.storeRegs x) s = .next t) : t.i = s.i := by
  cases (exec_storeRegs_of_inRange hr).symm.trans h
  exact s.writeBytes_i _ _

/-! ### The statements -/

/-- Settles O39: the digit at each of the three offsets, and the frame of a store of three bytes. -/
theorem decimalDigitsAreStored : Obligations.DecimalDigitsAreStored := by
  intro x s hr
  have hbase : s.indexBase + 3 ≤ 4096 := by omega
  exact ⟨_, exec_ldBcd_of_inRange hr,
    s.readByte_writeBytes_offset_toNat (k := 0) hbase (by simp) (hundredsDigit_toNat _),
    s.readByte_writeBytes_offset_toNat (k := 1) hbase (by simp) (tensDigit_toNat _),
    s.readByte_writeBytes_offset_toNat (k := 2) hbase (by simp) (unitsDigit_toNat _),
    State.writeBytes_indexBase_frame rfl hbase⟩

/-- Settles O40: the byte at each offset is the register's, and the frame of a store of `x + 1` bytes. -/
theorem blockStoreCopiesRegistersToMemory : Obligations.BlockStoreCopiesRegistersToMemory := by
  intro x s hr
  have hexec := exec_storeRegs_of_inRange hr
  exact ⟨_, hexec, fun k hk => readByte_of_exec_storeRegs hr hexec hk,
    State.writeBytes_indexBase_frame (by simp) (by omega)⟩

/-- Settles O41: register `k` of the block load is the byte at offset `k` up to `x` and the old register above. -/
theorem blockLoadCopiesMemoryToRegisters : Obligations.BlockLoadCopiesMemoryToRegisters := by
  intro x s hr
  refine ⟨_, withIndexRange_ok ((s.rangeOk_iff _).2 (by omega)), fun k hk => ?_,
    State.registerBlock_frame fun k hk => ?_⟩
  · simp [State.getV, hk]
  · simp [hk]

/-- Settles O42: the load reads, at the same base in the same memory, the bytes that the store put there. -/
theorem blockLoadRestoresStoredRegisters : Obligations.BlockLoadRestoresStoredRegisters := by
  intro x s t u hr hstore hmem hi
  have hbase : u.indexBase = s.indexBase := State.indexBase_congr (hi.trans (i_of_exec_storeRegs hr hstore))
  obtain ⟨w, hload, hregs, -⟩ := blockLoadCopiesMemoryToRegisters x u (by rwa [hbase])
  refine ⟨w, hload, fun k hk => ?_⟩
  calc w.getV k = u.readByte (BitVec.ofNat 12 (u.indexBase + k.val)) := hregs k hk
    _ = t.readByte (BitVec.ofNat 12 (s.indexBase + k.val)) := by rw [hbase, State.readByte_congr hmem]
    _ = s.getV k := readByte_of_exec_storeRegs hr hstore hk

/-- Settles O37: the meaning of `LD I` is `setI` of the zero-extended address. -/
theorem loadIndexSetsI : Obligations.LoadIndexSetsI := fun addr s =>
  ⟨_, rfl, absoluteTarget_toNat addr, s.setI_frame _⟩

/-- Settles O38: both are `setI`, of the 16-bit sum and of the glyph pointer. -/
theorem indexArithmeticChangesOnlyI : Obligations.IndexArithmeticChangesOnlyI := by
  intro x s
  refine ⟨⟨_, rfl, ?_, s.setI_frame _⟩, ⟨_, rfl, glyphAddress_toNat (by decide) _, s.setI_frame _⟩⟩
  rw [State.setI_i, BitVec.toNat_add, BitVec.toNat_setWidth_of_le (by decide)]

end Sys2Proof.Machine
end

section
/-! SUPPORT. The display (44_display.md): what a draw does to a set of pixels, `Blits`, proved for one sprite bit and
carried through the bits of a row and the rows of a sprite because these land on different pixels (R196 (a)); the frame
of a change of the framebuffer; the statements read off them. -/

namespace Sys2Proof.Machine
namespace Framebuffer

/-! ### A blit of a set of pixels -/

/-- From `acc` to `acc'` the pixels of `covers` are toggled, and a collision is added exactly when one of them was lit
(44_display.md R192). -/
structure Blits (covers : Fin 64 → Fin 32 → Bool) (acc acc' : Framebuffer × Bool) : Prop where
  pixel px py : acc'.1.pixel px py = (acc.1.pixel px py ^^ covers px py)
  collision : acc'.2 = true ↔ acc.2 = true ∨ ∃ px py, covers px py = true ∧ acc.1.pixel px py = true

theorem Blits.nothing (acc : Framebuffer × Bool) : Blits (fun _ _ => false) acc acc where
  pixel := by simp
  collision := by simp

/-- Two blits of disjoint sets are one blit of their union: the second meets the pixels of the start. -/
theorem Blits.trans {p q : Fin 64 → Fin 32 → Bool} {acc mid acc' : Framebuffer × Bool} (hp : Blits p acc mid)
    (hq : Blits q mid acc') (hdisj : ∀ px py, p px py = true → ¬ q px py = true) :
    Blits (fun px py => p px py || q px py) acc acc' where
  pixel px py := by
    have hxor : (p px py ^^ q px py) = (p px py || q px py) := by
      cases hpp : p px py
      · simp
      · simp [Bool.eq_false_iff.2 (hdisj px py hpp)]
    rw [hq.pixel, hp.pixel, Bool.xor_assoc, hxor]
  collision := by
    have hmid (px py) (hc : q px py = true) : mid.1.pixel px py = acc.1.pixel px py := by
      have hpp : p px py = false := Bool.eq_false_iff.2 fun h => hdisj px py h hc
      rw [hp.pixel, hpp, Bool.xor_false]
    have hlit : (∃ px py, q px py = true ∧ mid.1.pixel px py = true) ↔
        ∃ px py, q px py = true ∧ acc.1.pixel px py = true :=
      exists₂_congr fun px py => and_congr_right fun hc => by rw [hmid px py hc]
    rw [hq.collision, hp.collision, hlit]
    simp only [Bool.or_eq_true, or_and_right, exists_or, or_assoc]

/-- Steps that toggle disjoint sets of pixels together toggle their union. -/
theorem Blits.foldl_range {f : Framebuffer × Bool → Nat → Framebuffer × Bool} {hits : Nat → Fin 64 → Fin 32 → Bool}
    (hf : ∀ acc k, Blits (hits k) acc (f acc k)) (acc : Framebuffer × Bool) (n : Nat)
    (hdisj : ∀ j k px py, j < k → k < n → hits j px py = true → ¬ hits k px py = true) :
    Blits (fun px py => (List.range n).any fun k => hits k px py) acc ((List.range n).foldl f acc) := by
  induction n with
  | zero => exact .nothing acc
  | succ n ih =>
    have hfirst := ih fun j k px py hjk hk => hdisj j k px py hjk (by omega)
    have hlast (px py) (h : ((List.range n).any fun k => hits k px py) = true) : ¬ hits n px py = true := by
      obtain ⟨j, hj, hhit⟩ := List.any_eq_true.1 h
      exact hdisj j n px py (List.mem_range.1 hj) n.lt_succ_self hhit
    simpa [List.range_succ] using hfirst.trans (hf _ n) hlast

/-! ### A bit, a row, a sprite -/

theorem bitHits_iff {x0 y0 row : Byte} {r c : Nat} {px : Fin 64} {py : Fin 32} :
    bitHits x0 y0 r row c px py = true ↔
      row.getLsbD (7 - c) = true ∧ (x0.toNat + c) % 64 = px.val ∧ (y0.toNat + r) % 32 = py.val := by
  simp [bitHits, spriteBit, column, line, Fin.ext_iff, and_assoc, eq_comm (b := _ % _)]

theorem drawBit_blits (x0 y0 : Byte) (r : Nat) (row : Byte) (acc : Framebuffer × Bool) (c : Nat) :
    Blits (bitHits x0 y0 r row c) acc (drawBit x0 y0 r row acc c) where
  pixel := drawBit_pixel x0 y0 r row acc c
  collision := by simp [drawBit_collision, bitHits, and_assoc]

/-- A bit of the row that is 1 lands on this pixel. -/
def rowHits (x0 y0 : Byte) (r : Nat) (row : Byte) (px : Fin 64) (py : Fin 32) : Bool :=
  (List.range 8).any fun c => bitHits x0 y0 r row c px py

theorem rowHits_line {x0 y0 row : Byte} {r : Nat} {px : Fin 64} {py : Fin 32}
    (h : rowHits x0 y0 r row px py = true) : (y0.toNat + r) % 32 = py.val := by
  obtain ⟨c, -, hc⟩ := List.any_eq_true.1 h
  exact (bitHits_iff.1 hc).2.2

/-- The eight bits of a row land on different columns (44_display.md R196 (a)). -/
theorem drawRow_blits (x0 y0 : Byte) (r : Nat) (row : Byte) (acc : Framebuffer × Bool) :
    Blits (rowHits x0 y0 r row) acc (drawRow x0 y0 r row acc) := by
  refine .foldl_range (drawBit_blits x0 y0 r row) acc 8 fun j k px py hjk hk hj hk' => ?_
  obtain ⟨-, hcol, -⟩ := bitHits_iff.1 hj
  obtain ⟨-, hcol', -⟩ := bitHits_iff.1 hk'
  omega

/-- The rows are drawn in order, row `k` of the sprite on the line of its offset. -/
theorem drawRows_eq_foldl (x0 y0 : Byte) (r : Nat) (rows : List Byte) (acc : Framebuffer × Bool) :
    drawRows x0 y0 r rows acc =
      (List.range rows.length).foldl (fun acc k => drawRow x0 y0 (r + k) (rows.getD k 0#8) acc) acc := by
  induction rows generalizing r acc with
  | nil => rfl
  | cons row rest ih =>
    rw [drawRows_cons, ih, List.length_cons, List.range_succ_eq_map, List.foldl_cons, List.foldl_map]
    simp only [List.getD_cons_zero, List.getD_cons_succ, Nat.add_zero, Nat.add_right_comm r 1, Nat.add_assoc,
      Nat.succ_eq_add_one]

/-- `spriteCovers` is the union of the pixels hit by the rows. -/
theorem spriteCovers_eq (x0 y0 : Byte) (rows : List Byte) :
    spriteCovers x0 y0 rows = fun px py =>
      (List.range rows.length).any fun r => rowHits x0 y0 r (rows.getD r 0#8) px py := by
  funext px py
  simp only [spriteCovers, rowHits]
  congr! with r c
  rw [Bool.eq_iff_iff, bitHits_iff]
  simp only [Bool.and_eq_true, beq_iff_eq, and_assoc]

/-- The rows of a sprite land on different lines, so a draw toggles each covered pixel once (44_display.md R196 (b)). -/
theorem draw_blits (fb : Framebuffer) (x0 y0 : Byte) {rows : List Byte} (h : rows.length ≤ 15) :
    Blits (spriteCovers x0 y0 rows) (fb, false) (fb.draw x0 y0 rows) := by
  rw [spriteCovers_eq, draw, drawRows_eq_foldl]
  simp only [Nat.zero_add]
  refine .foldl_range (fun acc k => drawRow_blits x0 y0 k _ acc) _ _ fun j k px py hjk hk hj hk' => ?_
  have := rowHits_line hj
  have := rowHits_line hk'
  omega

section
variable (fb : Framebuffer) (x0 y0 : Byte) {rows : List Byte} (h : rows.length ≤ 15)
include h

theorem draw_pixel (px : Fin 64) (py : Fin 32) :
    (fb.draw x0 y0 rows).1.pixel px py = (fb.pixel px py ^^ spriteCovers x0 y0 rows px py) :=
  (draw_blits fb x0 y0 h).pixel px py

/-- "some sprite bit that is 1 lands on a pixel that is 1" (44_display.md R193). -/
theorem draw_collision_iff_lit : (fb.draw x0 y0 rows).2 = true ↔
    ∃ px py, spriteCovers x0 y0 rows px py = true ∧ fb.pixel px py = true := by
  simpa using (draw_blits fb x0 y0 h).collision

theorem draw_collision_iff_erased : (fb.draw x0 y0 rows).2 = true ↔
    ∃ px py, fb.pixel px py = true ∧ (fb.draw x0 y0 rows).1.pixel px py = false := by
  rw [draw_collision_iff_lit fb x0 y0 h]
  refine exists₂_congr fun px py => ?_
  rw [draw_pixel fb x0 y0 h, and_comm]
  exact and_congr_right fun hlit => by simp [hlit]

/-- Toggling each covered pixel a second time undoes the first (44_display.md R196 (c)). -/
theorem draw_draw : ((fb.draw x0 y0 rows).1.draw x0 y0 rows).1 = fb :=
  ext_pixel fun px py => by
    rw [draw_pixel _ x0 y0 h, draw_pixel fb x0 y0 h, Bool.xor_assoc, Bool.xor_self, Bool.xor_false]

/-- The second draw meets a lit pixel where the first met a dark one. -/
theorem draw_draw_collision_iff : ((fb.draw x0 y0 rows).1.draw x0 y0 rows).2 = true ↔
    ∃ px py, spriteCovers x0 y0 rows px py = true ∧ fb.pixel px py = false := by
  rw [draw_collision_iff_lit _ x0 y0 h]
  refine exists₂_congr fun px py => and_congr_right fun hc => ?_
  rw [draw_pixel fb x0 y0 h, hc]
  simp

end

/-- A sprite with a bit that is 1 covers the pixel that bit lands on. -/
theorem spriteCovers_of_spriteHasBit (x0 y0 : Byte) {rows : List Byte} (h : spriteHasBit rows = true) :
    ∃ px py, spriteCovers x0 y0 rows px py = true := by
  obtain ⟨row, hmem, hne⟩ := List.any_eq_true.1 h
  obtain ⟨r, hr, rfl⟩ := List.getElem_of_mem hmem
  obtain ⟨j, hj, hbit⟩ : ∃ j, ∃ h : j < 8, rows[r].getLsbD j = true := by
    by_contra! hno
    exact bne_iff_ne.1 hne (BitVec.eq_of_getLsbD_eq fun j hj => by simpa using hno j hj)
  refine ⟨column x0 (7 - j), line y0 r, ?_⟩
  rw [spriteCovers_eq]
  refine List.any_eq_true.2 ⟨r, List.mem_range.2 hr, List.any_eq_true.2 ⟨7 - j, List.mem_range.2 (by omega), ?_⟩⟩
  rw [List.getD_eq_getElem _ _ hr]
  refine bitHits_iff.2 ⟨?_, rfl, rfl⟩
  rwa [Nat.sub_sub_self (Nat.le_of_lt_succ hj)]

end Framebuffer

/-! ### `DRW` and `CLS` -/

namespace State

theorem setFb_frame (s : State) (fb : Framebuffer) :
    ChangesOnly (fun p => ∃ px py, p = .pixel px py) s { s with fb := fb } := by
  intro p hp
  cases p with
  | pixel px py => exact absurd ⟨px, py, rfl⟩ hp
  | _ => rfl

/-- A change of the framebuffer and then a flag touches pixels and `VF` alone. -/
theorem setFb_setFlag_frame (s : State) (fb : Framebuffer) (f : Bool) :
    ChangesOnly (fun p => p = .v 15 ∨ ∃ px py, p = .pixel px py) s (State.setFlag { s with fb := fb } f) := by
  intro p hp
  obtain ⟨hv, hpx⟩ := not_or.1 hp
  cases p with
  | v k => exact getV_setV_ne _ 15 k _ fun hk => hv (congrArg Part.v hk)
  | pixel px py => exact absurd ⟨px, py, rfl⟩ hpx
  | _ => rfl

end State

/-- `DRW` in range blits and leaves `VF` = 1 exactly without a collision (44_display.md R191, D3). -/
theorem exec_drw_of_inRange {x y : Reg} {n : Nibble} {s : State} (h : n = 0#4 ∨ s.indexBase + n.toNat ≤ 4096) :
    exec (.drw x y n) s =
      .next (State.setFlag { s with fb := (s.blit x y n.toNat).1 } (!(s.blit x y n.toNat).2)) :=
  withIndexRange_ok ((s.rangeOk_iff _).2 (h.imp_left (congrArg BitVec.toNat)))

/-! ### The statements -/

/-- Settles O45: by `Blits` for the whole sprite. -/
theorem drawXorsTheSpriteWithWrapAround : Obligations.DrawXorsTheSpriteWithWrapAround :=
  fun fb x0 y0 _ h => Framebuffer.draw_pixel fb x0 y0 h

/-- Settles O46: a covered pixel that was lit is the same as one that was lit and is erased. -/
theorem collisionMeansALitPixelWasErased : Obligations.CollisionMeansALitPixelWasErased :=
  fun fb x0 y0 _ h => Framebuffer.draw_collision_iff_erased fb x0 y0 h

/-- Settles O47: two toggles cancel; the pixel a bit of the sprite lands on was dark, so the second draw meets it lit. -/
theorem drawingTwiceRestoresTheDisplay : Obligations.DrawingTwiceRestoresTheDisplay := by
  intro fb x0 y0 rows h
  have hcollision := Framebuffer.draw_draw_collision_iff fb x0 y0 h
  refine ⟨Framebuffer.draw_draw fb x0 y0 h, hcollision, fun hbit hdark => hcollision.2 ?_⟩
  obtain ⟨px, py, hc⟩ := Framebuffer.spriteCovers_of_spriteHasBit x0 y0 hbit
  exact ⟨px, py, hc, hdark px py hc⟩

/-- Settles O48: the blit of the `n` bytes read, with `VF` by whether it erased a lit pixel. -/
theorem drawInstructionBlitsMemory : Obligations.DrawInstructionBlitsMemory := by
  intro x y n s hr
  have hlen : (s.readBytes s.indexBase n.toNat).length ≤ 15 := by
    have := n.isLt
    simp only [State.readBytes, List.length_map, List.length_range]
    omega
  have herased := Framebuffer.draw_collision_iff_erased s.fb (s.getV x) (s.getV y) hlen
  refine ⟨_, exec_drw_of_inRange hr, Framebuffer.draw_pixel s.fb (s.getV x) (s.getV y) hlen, fun hoff => ?_,
    fun hkept => ?_, s.setFb_setFlag_frame _ _⟩
  · have hcol : (s.blit x y n.toNat).2 = true := herased.2 hoff
    rw [State.getV_setFlag, if_pos rfl, hcol]
    rfl
  · have hcol : (s.blit x y n.toNat).2 = false := by
      refine Bool.eq_false_iff.2 fun hc => ?_
      obtain ⟨px, py, hlit, hoff⟩ := herased.1 hc
      exact Bool.false_ne_true (hoff.symm.trans (hkept px py hlit))
    rw [State.getV_setFlag, if_pos rfl, hcol]
    rfl

/-- Settles O44: `CLS` answers the blank framebuffer. -/
theorem clearMakesEveryPixelZero : Obligations.ClearMakesEveryPixelZero := fun s =>
  ⟨_, rfl, Framebuffer.pixel_blank, s.setFb_frame _⟩

/-- Settles O57: dividing `y * 64 + x` by 64 gives the row `y` and the remainder `x`. -/
theorem framebufferIsExportedRowMajor : Obligations.FramebufferIsExportedRowMajor := by
  intro px py s h
  have hx : Fin.ofNat 64 (py.val * 64 + px.val) = px := Fin.ext (by rw [Fin.val_ofNat]; omega)
  have hy : Fin.ofNat 32 ((py.val * 64 + px.val) / 64) = py := Fin.ext (by rw [Fin.val_ofNat]; omega)
  rw [State.fbOut, Vector.getElem_ofFn, hx, hy]

end Sys2Proof.Machine
end

section
/-! SUPPORT. The keypad (45_keypad.md): the lowest pressed key by its property, `LD Vx, K` by the keys, the cycle of a
fetched instruction, and the statements read off them. -/

namespace Sys2Proof.Machine

/-! ### The lowest pressed key and the polling cycle's state -/

namespace State

/-- "the lowest-indexed pressed key" (45_keypad.md R213). -/
theorem lowestPressed_eq_some {s : State} {k : Key} (hk : s.isPressed k = true)
    (hlow : ∀ j : Key, j < k → s.isPressed j = false) : s.lowestPressed = some k := by
  refine List.find?_eq_some_iff_getElem.mpr ⟨hk, k.val, by simp, by simp, fun j hj => ?_⟩
  simp [hlow ⟨j, by omega⟩ hj]

/-- The key wait undoes the fetch advance (45_keypad.md R213). -/
theorem advancePc_setPc_back (s : State) : s.advancePc.setPc (s.advancePc.pc - 2#16) = s := by
  have hpc : s.pc + 2#16 - 2#16 = s.pc := BitVec.add_sub_cancel _ _
  simp only [advancePc, setPc, hpc]

theorem tick_frame (s : State) : ChangesOnly (· ∈ [Part.dt, Part.st]) s s.tick := by
  intro p hp
  cases p with
  | dt | st => simp at hp
  | _ => rfl

theorem fetchedInstr_tick (s : State) : s.tick.fetchedInstr = s.fetchedInstr := rfl

end State

/-! ### `LD Vx, K` by the keys -/

section
variable {x : Reg} {s : State}

theorem exec_ldVxKey_of_none (h : ∀ k, s.isPressed k = false) :
    exec (.ldVxKey x) s = .next (s.setPc (s.pc - 2#16)) := by
  simp only [exec, execLdVxKey, State.lowestPressed_none.mpr h]

theorem exec_ldVxKey_of_lowest {k : Key} (h : s.lowestPressed = some k) :
    exec (.ldVxKey x) s = .next (s.setV x (BitVec.ofNat 8 k.val)) := by
  simp only [exec, execLdVxKey, h]

end

/-! ### The cycle of a fetched instruction -/

/-- The cycle is the execute step on the advanced state, then the end of the cycle (70_reset_and_hazards.md R285). -/
theorem step_of_fetchedInstr {s : State} {i : Instr} (hf : s.faulted = false) (hi : s.fetchedInstr = some i) :
    step s = finishCycle (exec i s.advancePc) := by
  obtain ⟨w, hw, hd⟩ := Option.bind_eq_some_iff.mp hi
  cases hdec : decode w with
  | ok j =>
    rw [hdec] at hd
    cases hd
    simp [step, hf, hw, hdec]
  | error r => simp [hdec, Except.toOption] at hd

/-- The advance and the key wait's step back cancel, so the tick alone is left. -/
theorem step_of_polling {x : Reg} {s : State} (hf : s.faulted = false) (hi : s.fetchedInstr = some (.ldVxKey x))
    (hkeys : ∀ k, s.isPressed k = false) : step s = .next s.tick := by
  have hadv k : s.advancePc.isPressed k = false := (State.isPressed_congr s.advancePc_keys k).trans (hkeys k)
  rw [step_of_fetchedInstr hf hi, exec_ldVxKey_of_none hadv, s.advancePc_setPc_back, finishCycle,
    State.endCycle_of_not_faulted hf]

/-! ### The statements -/

/-- Settles O50: without a key the wait sets `PC` back; the lowest pressed key is the one it finds, and its index fits
in a byte. -/
theorem keyWaitTakesTheLowestKeyOrPolls : Obligations.KeyWaitTakesTheLowestKeyOrPolls := by
  intro x s
  refine ⟨fun hkeys => ⟨_, exec_ldVxKey_of_none hkeys, rfl, s.setPc_frame _⟩, fun k hk hlow => ?_⟩
  have hval : (BitVec.ofNat 8 k.val).toNat = k.val := Nat.mod_eq_of_lt (by omega)
  exact ⟨_, exec_ldVxKey_of_lowest (State.lowestPressed_eq_some hk hlow), by rw [State.getV_setV_same, hval],
    s.setV_frame x _⟩

/-- Settles O51: a polling cycle is the tick, which touches neither `PC` nor memory. -/
theorem pollingCycleStaysAtTheInstruction : Obligations.PollingCycleStaysAtTheInstruction := fun _ s hf hi hkeys =>
  ⟨s.tick, step_of_polling hf hi hkeys, s.fetchedInstr_tick.trans hi, rfl, State.countDown_toNat s.dt,
    State.countDown_toNat s.st, s.tick_frame⟩

/-- Settles O49: each skip is `skipIf` of the level of the key that the low nibble names, or of its negation. -/
theorem keySkipsFollowTheNamedKey : Obligations.KeySkipsFollowTheNamedKey := by
  intro x k s hk
  obtain rfl : lowNibble (s.getV x) = k := Fin.ext ((lowNibble_val _).trans hk.symm)
  refine ⟨⟨_, rfl, s.skipIf_pc _, s.skipIf_frame _⟩, ⟨_, rfl, ?_, s.skipIf_frame _⟩⟩
  rw [State.skipIf_pc]
  cases s.isPressed (lowNibble (s.getV x)) <;> rfl

end Sys2Proof.Machine
end

section
/-! SUPPORT. The timers and the tone (46_timer.md): what makes a piece of state a timer, `IsTimer`, shown once for `DT` and
once for `ST`; what a cycle leaves in a timer; and the statements read off it. -/

namespace Sys2Proof.Machine

/-! ### A write of a timer, and the end of a cycle -/

namespace State

theorem setDt_frame (s : State) (b : Byte) : ChangesOnly (· = .dt) s (s.setDt b) := by
  intro p hp
  cases p with
  | dt => exact absurd rfl hp
  | _ => rfl

theorem setSt_frame (s : State) (b : Byte) : ChangesOnly (· = .st) s (s.setSt b) := by
  intro p hp
  cases p with
  | st => exact absurd rfl hp
  | _ => rfl

theorem faulted_endCycle (s : State) : s.endCycle.faulted = s.faulted := by
  cases hf : s.faulted with
  | true => rw [endCycle_of_faulted hf, hf]
  | false => rw [endCycle_of_not_faulted hf]; exact hf

theorem raiseFetchRange_faulted (s : State) : s.raiseFetchRange.faulted = true := rfl

theorem fetchedInstr_of_fetchWord {s : State} {w : Word} (hw : s.fetchWord = some w) :
    s.fetchedInstr = (decode w).toOption := by
  rw [fetchedInstr, hw, Option.bind_some]

end State

/-! ### A timer and the instruction that loads it -/

/-- A timer is written by the one instruction that loads it from a register (46_timer.md R221, R222) and by the tick
(R223); a fault writes none. -/
structure IsTimer (load : Reg → Instr) (timer : State → Byte) : Prop where
  exec_load : ∀ x s, ∃ u, exec (load x) s = .next u ∧ timer u = s.getV x ∧ u.faulted = s.faulted
  exec_other : ∀ {i s u}, exec i s = .next u → (∀ x, i ≠ load x) → timer u = timer s
  raiseFetchRange : ∀ s, timer s.raiseFetchRange = timer s
  advancePc : ∀ s, timer s.advancePc = timer s
  tick : ∀ s, timer s.tick = State.countDown (timer s)

theorem isTimer_dt : IsTimer .ldDtVx State.dt where
  exec_load _ _ := ⟨_, rfl, rfl, rfl⟩
  exec_other h hi := by
    by_contra hne
    obtain ⟨x, rfl⟩ := (exec_effect h).dt_writer hne
    exact hi x rfl
  raiseFetchRange _ := rfl
  advancePc _ := rfl
  tick _ := rfl

theorem isTimer_st : IsTimer .ldStVx State.st where
  exec_load _ _ := ⟨_, rfl, rfl, rfl⟩
  exec_other h hi := by
    by_contra hne
    obtain ⟨x, rfl⟩ := (exec_effect h).st_writer hne
    exact hi x rfl
  raiseFetchRange _ := rfl
  advancePc _ := rfl
  tick _ := rfl

namespace IsTimer

variable {load : Reg → Instr} {timer : State → Byte} {s t : State}

theorem endCycle_toNat (hT : IsTimer load timer) (hf : s.faulted = false) :
    (timer s.endCycle).toNat = (timer s).toNat - 1 := by
  rw [State.endCycle_of_not_faulted hf, hT.tick, State.countDown_toNat]

/-- The cycle that loads a timer ends with the value loaded less the tick of that cycle (46_timer.md R221 to R223). -/
theorem step_of_load (hT : IsTimer load timer) {x : Reg} (hf : s.faulted = false)
    (hi : s.fetchedInstr = some (load x)) :
    ∃ t, step s = .next t ∧ (timer t).toNat = (s.getV x).toNat - 1 := by
  obtain ⟨u, hu, hload, hfault⟩ := hT.exec_load x s.advancePc
  refine ⟨u.endCycle, by rw [step_of_fetchedInstr hf hi, hu, finishCycle], ?_⟩
  rw [hT.endCycle_toNat (hfault.trans hf), hload, State.getV_congr s.advancePc_v]

theorem toNat_of_step_load (hT : IsTimer load timer) {x : Reg} (hf : s.faulted = false)
    (hi : s.fetchedInstr = some (load x)) (h : step s = .next t) : (timer t).toNat = (s.getV x).toNat - 1 := by
  obtain ⟨u, hu, htimer⟩ := hT.step_of_load hf hi
  cases h.symm.trans hu
  exact htimer

/-- A cycle that faults performs no tick (60_exceptions.md R244), and the load of a timer raises no fault. -/
theorem eq_of_step_faults (hT : IsTimer load timer) (hf : s.faulted = false) (h : step s = .next t)
    (ht : t.faulted = true) : timer t = timer s := by
  obtain ⟨hs, -⟩ | ⟨-, -, rfl⟩ | ⟨-, -, w, r, -, -, rfl⟩ | ⟨-, -, w, i, u, -, -, hu, rfl⟩ := step_cases h
  · simp [hf] at hs
  · exact hT.raiseFetchRange s
  · rw [State.faulted_endCycle] at ht
    exact absurd (ht.symm.trans hf) (by decide)
  · rw [State.faulted_endCycle] at ht
    have hother : ∀ x, i ≠ load x := by
      rintro x rfl
      obtain ⟨v, hv, -, hfault⟩ := hT.exec_load x s.advancePc
      cases hu.symm.trans hv
      exact absurd (ht.symm.trans (hfault.trans hf)) (by decide)
    rw [State.endCycle_of_faulted ht, hT.exec_other hu hother, hT.advancePc]

/-- A cycle that runs no load of a timer and does not fault ticks it (46_timer.md R223). -/
theorem toNat_of_step_other (hT : IsTimer load timer) (hf : s.faulted = false) (h : step s = .next t)
    (ht : t.faulted = false) (hi : ∀ x, s.fetchedInstr ≠ some (load x)) :
    (timer t).toNat = (timer s).toNat - 1 := by
  obtain ⟨hs, -⟩ | ⟨-, -, rfl⟩ | ⟨-, -, w, r, -, -, rfl⟩ | ⟨-, -, w, i, u, hw, hd, hu, rfl⟩ := step_cases h
  · simp [hf] at hs
  · simp [s.raiseFetchRange_faulted] at ht
  · rw [State.faulted_endCycle] at ht
    rw [hT.endCycle_toNat ht, hT.advancePc]
  · rw [State.faulted_endCycle] at ht
    have hother : ∀ x, i ≠ load x := by
      rintro x rfl
      exact hi x (by rw [State.fetchedInstr_of_fetchWord hw, hd]; rfl)
    rw [hT.endCycle_toNat ht, hT.exec_other hu hother, hT.advancePc]

end IsTimer

/-! ### The statements -/

/-- Settles O10: for each timer, a cycle that faults leaves it, and one that does not ends with its load or its old value,
less the tick. -/
theorem everyCycleTicksBothTimersOnce : Obligations.EveryCycleTicksBothTimersOnce := by
  intro s t hf h
  refine ⟨fun ht => ⟨isTimer_dt.eq_of_step_faults hf h ht, isTimer_st.eq_of_step_faults hf h ht⟩, fun ht => ⟨?_, ?_⟩⟩
  · split
    next x hi => exact isTimer_dt.toNat_of_step_load hf hi h
    next hi => exact isTimer_dt.toNat_of_step_other hf h ht hi
  · split
    next x hi => exact isTimer_st.toNat_of_step_load hf hi h
    next hi => exact isTimer_st.toNat_of_step_other hf h ht hi

/-- Settles O53: the sound timer ends at `V[x]` less 1, which is not 0 from `V[x]` = 2 on. -/
theorem toneIsHeardFromTwoOn : Obligations.ToneIsHeardFromTwoOn := by
  intro x s t hf hi h
  have hst := isTimer_st.toNat_of_step_load hf hi h
  have htone : t.tone = true ↔ t.st.toNat ≠ 0 := by simp [State.tone, ← BitVec.toNat_inj]
  rw [htone]
  omega

/-- Settles O52: each execute step is one write; the cycle that reads `DT` ticks it after the copy, and the cycles that
load a timer are `IsTimer.step_of_load`. -/
theorem timerMovesCopyTheValue : Obligations.TimerMovesCopyTheValue := by
  intro x s
  refine ⟨⟨_, rfl, s.getV_setV_same x _, s.setV_frame x _⟩, ⟨_, rfl, rfl, s.setDt_frame _⟩,
    ⟨_, rfl, rfl, s.setSt_frame _⟩, fun hf hi => ?_, isTimer_dt.step_of_load, isTimer_st.step_of_load⟩
  have hend : (s.advancePc.setV x s.dt).endCycle = (s.advancePc.setV x s.dt).tick := State.endCycle_of_not_faulted hf
  refine ⟨(s.advancePc.setV x s.dt).tick, ?_, s.advancePc.getV_setV_same x _, State.countDown_toNat s.dt⟩
  rw [step_of_fetchedInstr hf hi, ← hend]
  rfl

end Sys2Proof.Machine
end

section
/-! SUPPORT. The faults (60_exceptions.md): what a faulted machine answers, what a cycle that faults leaves of the state,
when each fault is due, and the statements read off them. -/

namespace Sys2Proof.Machine

/-! ### Taking a fault in a cycle -/

namespace State

@[simp] theorem endCycle_fault (s : State) : s.endCycle.fault = s.fault := by
  unfold endCycle
  split <;> rfl

theorem cause_of_not_faulted {s : State} (hf : s.faulted = false) : s.fault.cause = .none := by
  simpa [faulted] using hf

theorem raiseFetchRange_frame (s : State) : ChangesOnly (· = .fault) s s.raiseFetchRange := by
  intro p hp
  cases p with
  | fault => exact absurd rfl hp
  | _ => rfl

/-- The lowest byte address out of range of the fetch at 0xFFF is 0x1000 (60_exceptions.md R245). -/
theorem raiseFetchRange_fault (s : State) : s.raiseFetchRange.fault =
    ⟨.fetchRange, s.pc, 0#16, if s.pc = 0xFFF#16 then 0x1000#16 else s.pc, s.sp⟩ := by
  have haddr : (if s.pc = 0xFFF#16 then s.pc + 1#16 else s.pc) = if s.pc = 0xFFF#16 then 0x1000#16 else s.pc :=
    ite_congr rfl (fun hpc => by rw [hpc]; rfl) fun _ => rfl
  rw [raiseFetchRange, takeFault_fault, haddr]

/-- A fault of the execute step undoes the fetch advance, so it is taken at the instruction (60_exceptions.md R244). -/
theorem advancePc_raiseAt (s : State) (c : FaultCause) (i : Instr) (a : Word) :
    s.advancePc.raiseAt c i a = s.takeFault s.pc c (encode i) a := by
  have hpc : s.pc + 2#16 - 2#16 = s.pc := BitVec.add_sub_cancel _ _
  simp only [raiseAt, takeFault, advancePc, setPc, hpc]

theorem rangeOk_eq_false_iff (s : State) (n : Nat) :
    s.rangeOk n = false ↔ 1 ≤ n ∧ 0xFFF < s.indexBase + n - 1 := by
  rw [← Bool.not_eq_true, rangeOk_iff]
  omega

end State

/-! ### The faulted machine -/

theorem step_of_faulted {s : State} (hf : s.faulted = true) : step s = .next s := if_pos hf

/-- A state that a cycle answers unchanged is answered by every number of cycles. -/
theorem run_of_step_eq_self {s : State} (h : step s = .next s) (k : Nat) :
    Host.Core.run Sys2Proof.core k s = .next s := by
  induction k with
  | zero => rfl
  | succ k ih =>
    have hstep : Sys2Proof.core.step s = .next s := h
    simp only [Host.Core.run, hstep]
    exact ih

theorem perform_cycle_of_faulted {s : State} (hf : s.faulted = true) :
    perform .cycle s = .next (s, .fault s.fault) := by
  simp only [perform, step_of_faulted hf, State.cycleReply, hf, if_true, State.faultOut]

/-- Only `Reset` and a cycle that is not faulted can write `FAULT`. -/
theorem perform_keeps_fault {c : Command} {s : State} (hf : s.faulted = true) (hc : c ≠ .reset) :
    ∃ t reply, perform c s = .next (t, reply) ∧ t.fault = s.fault := by
  cases c with
  | reset => exact absurd rfl hc
  | load bytes =>
    by_cases hfit : State.romFits bytes = true
    · exact ⟨_, _, if_pos hfit, s.writeBytes_fault _ _⟩
    · exact ⟨_, _, if_neg hfit, rfl⟩
  | keySet k b => exact ⟨_, _, rfl, rfl⟩
  | cycle => exact ⟨_, _, perform_cycle_of_faulted hf, rfl⟩

/-! ### What a fault leaves of the state -/

theorem step_of_fetchRange {s : State} (hf : s.faulted = false) (hpc : 0xFFF ≤ s.pc.toNat) :
    step s = .next s.raiseFetchRange := by
  have hw : s.fetchWord = none := if_neg (by omega)
  simp [step, hf, hw]

/-- An execute step leaves the fault record, or all it does is raise a fault. -/
theorem ExecEffect.fault_eq_or_raiseAt {i : Instr} {s t : State} (h : ExecEffect s i t) :
    t.fault = s.fault ∨ ∃ c a, t = s.raiseAt c i a := by
  cases h with
  | overflow | underflow | memRange => exact .inr ⟨_, _, rfl⟩
  | _ => exact .inl (by simp)

/-- A cycle that faults is the taking of one fault, at its own `PC` (60_exceptions.md R244). -/
theorem eq_takeFault_of_step_faults {s t : State} (hf : s.faulted = false) (h : step s = .next t)
    (ht : t.faulted = true) : ∃ c w a, t = s.takeFault s.pc c w a := by
  obtain ⟨hs, -⟩ | ⟨-, -, rfl⟩ | ⟨-, -, w, r, -, -, rfl⟩ | ⟨-, -, w, i, u, -, -, hu, rfl⟩ := step_cases h
  · simp [hf] at hs
  · exact ⟨_, _, _, rfl⟩
  · rw [State.faulted_endCycle] at ht
    exact absurd (ht.symm.trans hf) (by decide)
  · rw [State.faulted_endCycle] at ht
    rw [State.endCycle_of_faulted ht]
    obtain hfault | ⟨c, a, rfl⟩ := (exec_effect hu).fault_eq_or_raiseAt
    · exact absurd (ht.symm.trans ((State.faulted_congr hfault).trans hf)) (by decide)
    · exact ⟨c, encode i, a, s.advancePc_raiseAt c i a⟩

/-! ### The four accesses through `I` -/

/-- Each of the four accesses is one range check before an effect that leaves `FAULT` (20_memory.md R64). -/
theorem exec_of_indexCount {i : Instr} {n : Nat} (hn : indexCount i = some n) (s : State) :
    ∃ effect, exec i s = withIndexRange s i n effect ∧ effect.fault = s.fault := by
  cases i with
  | drw | loadRegs => cases hn; exact ⟨_, rfl, rfl⟩
  | ldBcd | storeRegs => cases hn; exact ⟨_, rfl, s.writeBytes_fault _ _⟩
  | _ => cases hn

theorem exec_of_indexCount_of_past {i : Instr} {n : Nat} {s : State} (hn : indexCount i = some n)
    (hr : s.rangeOk n = false) :
    exec i s = .next (s.raiseAt .memRange i (BitVec.ofNat 16 (s.lastAddress n))) := by
  obtain ⟨effect, hexec, -⟩ := exec_of_indexCount hn s
  rw [hexec, withIndexRange_fault hr]

/-! ### The fault that is due (60_exceptions.md R246), and the fault that is raised -/

section
variable {s : State} {i : Instr}

theorem dueFault_of_fetchRange (hpc : 0xFFF ≤ s.pc.toNat) : s.dueFault = .fetchRange := if_pos hpc

theorem dueFault_of_unknown (hpc : s.pc.toNat ≤ 0xFFE) (hi : s.fetchedInstr = none) : s.dueFault = .none := by
  rw [State.dueFault, if_neg (by omega), hi]

theorem dueFault_of_call {addr : Addr} (hpc : s.pc.toNat ≤ 0xFFE) (hi : s.fetchedInstr = some (.call addr)) :
    s.dueFault = if s.sp = 16 then .stackOverflow else .none := by
  rw [State.dueFault, if_neg (by omega), hi]

theorem dueFault_of_ret (hpc : s.pc.toNat ≤ 0xFFE) (hi : s.fetchedInstr = some .ret) :
    s.dueFault = if s.sp = 0 then .stackUnderflow else .none := by
  rw [State.dueFault, if_neg (by omega), hi]

theorem dueFault_of_indexCount {n : Nat} (hpc : s.pc.toNat ≤ 0xFFE) (hi : s.fetchedInstr = some i)
    (hn : indexCount i = some n) : s.dueFault = if s.rangeOk n = false then .memRange else .none := by
  simp only [State.rangeOk_eq_false_iff]
  rw [State.dueFault, if_neg (by omega), hi]
  cases i with
  | drw | ldBcd | storeRegs | loadRegs => cases hn; rfl
  | _ => cases hn

theorem dueFault_of_other (hpc : s.pc.toNat ≤ 0xFFE) (hi : s.fetchedInstr = some i) (hcall : ∀ addr, i ≠ .call addr)
    (hret : i ≠ .ret) (hn : indexCount i = none) : s.dueFault = .none := by
  rw [State.dueFault, if_neg (by omega), hi]
  cases i with
  | call addr => exact absurd rfl (hcall addr)
  | ret => exact absurd rfl hret
  | drw | ldBcd | storeRegs | loadRegs => cases hn
  | _ => rfl

theorem cause_of_exec_call {t : State} {addr : Addr} (hf : s.fault.cause = .none) (h : exec (.call addr) s = .next t) :
    t.fault.cause = if s.sp = 16 then .stackOverflow else .none := by
  split
  next hsp => cases h.symm.trans (exec_call_of_full hsp); rfl
  next hsp => cases h.symm.trans (exec_call_of_room fun e => hsp (Fin.ext e)); exact hf

theorem cause_of_exec_ret {t : State} (hf : s.fault.cause = .none) (h : exec .ret s = .next t) :
    t.fault.cause = if s.sp = 0 then .stackUnderflow else .none := by
  split
  next hsp => cases h.symm.trans (exec_ret_of_empty hsp); rfl
  next hsp => cases h.symm.trans (exec_ret_of_pending fun e => hsp (Fin.ext e)); exact hf

theorem cause_of_exec_indexCount {t : State} {n : Nat} (hf : s.fault.cause = .none) (hn : indexCount i = some n)
    (h : exec i s = .next t) : t.fault.cause = if s.rangeOk n = false then .memRange else .none := by
  obtain ⟨effect, hexec, hfault⟩ := exec_of_indexCount hn s
  obtain ⟨hr, rfl⟩ | ⟨hr, rfl⟩ := withIndexRange_cases (hexec.symm.trans h)
  · rw [if_neg (by simp [hr]), hfault, hf]
  · exact (if_pos hr).symm

theorem cause_of_exec_other {t : State} (hf : s.fault.cause = .none) (hcall : ∀ addr, i ≠ .call addr) (hret : i ≠ .ret)
    (hn : indexCount i = none) (h : exec i s = .next t) : t.fault.cause = .none := by
  have hfault : t.fault = s.fault := by
    by_contra hne
    obtain e | ⟨addr, e⟩ | ⟨n, e⟩ := (exec_effect h).fault_writer hne
    · exact hret e
    · exact hcall addr e
    · simp [hn] at e
  rw [hfault, hf]

/-- The execute step of a fetched instruction raises the fault that is due: of the two stack instructions by `SP`, of the
four accesses by the range check, and of no other instruction. The fetch advance changes none of these. -/
theorem cause_of_exec_fetched {t : State} (hf : s.faulted = false) (hpc : s.pc.toNat ≤ 0xFFE)
    (hi : s.fetchedInstr = some i) (h : exec i s.advancePc = .next t) : t.fault.cause = s.dueFault := by
  have hnone : s.advancePc.fault.cause = .none := State.cause_of_not_faulted hf
  by_cases hcall : ∃ addr, i = .call addr
  · obtain ⟨addr, rfl⟩ := hcall
    exact (cause_of_exec_call hnone h).trans (dueFault_of_call hpc hi).symm
  by_cases hret : i = .ret
  · subst hret
    exact (cause_of_exec_ret hnone h).trans (dueFault_of_ret hpc hi).symm
  cases hn : indexCount i with
  | some n => exact (cause_of_exec_indexCount hnone hn h).trans (dueFault_of_indexCount hpc hi hn).symm
  | none =>
    have hcall' : ∀ addr, i ≠ .call addr := fun addr e => hcall ⟨addr, e⟩
    exact (cause_of_exec_other hnone hcall' hret hn h).trans (dueFault_of_other hpc hi hcall' hret hn).symm

end

/-! ### The statements -/

/-- Settles O13: a cycle answers the faulted state itself, the other commands but `Reset` keep its record, and the reset
record is clear. -/
theorem faultedMachineStaysUntilReset : Obligations.FaultedMachineStaysUntilReset := by
  intro s hf
  refine ⟨run_of_step_eq_self (step_of_faulted hf), perform_cycle_of_faulted hf, fun c hc => ?_, rfl, rfl⟩
  obtain ⟨t, reply, hperform, hfault⟩ := perform_keeps_fault hf hc
  exact ⟨t, reply, hperform, hfault, (State.faulted_congr hfault).trans hf⟩

/-- Settles O14: the cycle took one fault at its own `PC`, which writes `FAULT` alone. -/
theorem faultsLeaveNoPartialEffect : Obligations.FaultsLeaveNoPartialEffect := by
  intro s t hf h ht
  obtain ⟨c, w, a, rfl⟩ := eq_takeFault_of_step_faults hf h ht
  exact ⟨rfl, rfl, rfl⟩

/-- Settles O15, by the cases of a cycle. -/
theorem faultsAreRaisedExactlyWhenDue : Obligations.FaultsAreRaisedExactlyWhenDue := by
  intro s t hf h
  obtain ⟨hs, -⟩ | ⟨-, hpc, rfl⟩ | ⟨-, hpc, w, r, hw, hd, rfl⟩ | ⟨-, hpc, w, i, u, hw, hd, hu, rfl⟩ := step_cases h
  · simp [hf] at hs
  · exact (dueFault_of_fetchRange hpc).symm
  · have hi : s.fetchedInstr = none := by rw [State.fetchedInstr_of_fetchWord hw, hd]; rfl
    rw [dueFault_of_unknown hpc hi, State.endCycle_fault]
    exact State.cause_of_not_faulted hf
  · have hi : s.fetchedInstr = some i := by rw [State.fetchedInstr_of_fetchWord hw, hd]; rfl
    rw [State.endCycle_fault]
    exact cause_of_exec_fetched hf hpc hi hu

/-- Settles O16: past the top the cycle is `raiseFetchRange`. -/
theorem fetchRangeRecordsTheAddress : Obligations.FetchRangeRecordsTheAddress := fun s hf hpc =>
  ⟨_, step_of_fetchRange hf hpc, s.raiseFetchRange_frame, s.raiseFetchRange_fault⟩

/-- Settles O17: `CALL` on a full stack and `RET` on an empty one are `raiseAt`, which records the `SP` it finds. -/
theorem stackFaultsRecordTheInstruction : Obligations.StackFaultsRecordTheInstruction :=
  ⟨fun _ s hsp => ⟨_, exec_call_of_full hsp, rfl, s.raiseAt_frame _ _ _, by rw [State.raiseAt_fault, hsp]⟩,
    fun s hsp => ⟨_, exec_ret_of_empty hsp, rfl, s.raiseAt_frame _ _ _, by rw [State.raiseAt_fault, hsp]; rfl⟩⟩

/-- Settles O18: the range check fails, so the access is `raiseAt` with the last address. -/
theorem accessPastTheTopRaisesMemRange : Obligations.AccessPastTheTopRaisesMemRange := by
  intro i n s hn hcount hlast
  have hr : s.rangeOk n = false := (s.rangeOk_eq_false_iff n).2 ⟨hcount, hlast⟩
  exact ⟨_, exec_of_indexCount_of_past hn hr, rfl, s.raiseAt_frame _ _ _, rfl⟩

end Sys2Proof.Machine
end

section
/-! SUPPORT. The cycle as a whole (70_reset_and_hazards.md R285 to R287): every execute step and every cycle answers a next
state; the parked machine (R298); and the statements read off them. -/

namespace Sys2Proof.Machine

/-! ### Every cycle answers -/

theorem withIndexRange_answers (s : State) (i : Instr) (n : Nat) (effect : State) :
    ∃ t, withIndexRange s i n effect = .next t := by
  cases hr : s.rangeOk n with
  | true => exact ⟨_, withIndexRange_ok hr⟩
  | false => exact ⟨_, withIndexRange_fault hr⟩

/-- Each condition that an execute step tests has a next state on both sides; the stack faults and `MemRange` are among
them (60_exceptions.md R244). -/
theorem exec_answers (i : Instr) (s : State) : ∃ t, exec i s = .next t := by
  cases i with
  | call addr =>
    by_cases hsp : s.sp = 16
    · exact ⟨_, exec_call_of_full hsp⟩
    · exact ⟨_, exec_call_of_room fun h => hsp (Fin.ext h)⟩
  | ret =>
    by_cases hsp : s.sp = 0
    · exact ⟨_, exec_ret_of_empty hsp⟩
    · exact ⟨_, exec_ret_of_pending fun h => hsp (Fin.ext h)⟩
  | ldVxKey x =>
    cases hk : s.lowestPressed with
    | none => exact ⟨_, exec_ldVxKey_of_none (State.lowestPressed_none.mp hk)⟩
    | some k => exact ⟨_, exec_ldVxKey_of_lowest hk⟩
  | drw | ldBcd | storeRegs | loadRegs => exact withIndexRange_answers s _ _ _
  | _ => exact ⟨_, rfl⟩

/-- The cycle of a word that decodes: the execute step on the advanced state, then the tick unless it faulted
(70_reset_and_hazards.md R285). -/
theorem step_of_decoded {s t : State} {w : Word} {i : Instr} (hf : s.faulted = false) (hw : s.fetchWord = some w)
    (hd : decode w = .ok i) (h : exec i s.advancePc = .next t) : step s = .next t.endCycle := by
  have hi : s.fetchedInstr = some i := by rw [State.fetchedInstr_of_fetchWord hw, hd]; rfl
  rw [step_of_fetchedInstr hf hi, h, finishCycle]

theorem step_answers (s : State) : ∃ t, step s = .next t := by
  cases hf : s.faulted with
  | true => exact ⟨s, step_of_faulted hf⟩
  | false =>
    by_cases hpc : s.pc.toNat ≤ 0xFFE
    · obtain ⟨w, hw⟩ := Option.isSome_iff_exists.mp (s.fetchWord_isSome.mpr hpc)
      cases hd : decode w with
      | ok i =>
        obtain ⟨t, ht⟩ := exec_answers i s.advancePc
        exact ⟨_, step_of_decoded hf hw hd ht⟩
      | error r => exact ⟨_, step_of_unknown hf hw hd⟩
    · exact ⟨_, step_of_fetchRange hf (by omega)⟩

/-! ### The parked machine -/

/-- The word of `JP` is its target under the leading nibble 1 (30_encoding.md R94). -/
theorem encode_jp (addr : Addr) : encode (.jp addr) = 0x1000#16 ||| absoluteTarget addr := by
  have hlead : (0x1000#16 : Word) = 0x1#4 ++ 0#12 := rfl
  have htarget : absoluteTarget addr = 0#4 ++ addr := BitVec.setWidth_eq_append (by decide)
  rw [hlead, htarget, BitVec.or_append, BitVec.or_zero, BitVec.zero_or]
  rfl

/-- A `PC` inside memory is the target of the `JP` to it. -/
theorem absoluteTarget_setWidth {pc : Word} (h : pc.toNat ≤ 0xFFF) : absoluteTarget (pc.setWidth 12) = pc := by
  apply BitVec.eq_of_toNat_eq
  rw [absoluteTarget_toNat, BitVec.toNat_setWidth]
  omega

namespace State

theorem tick_of_timers_zero {s : State} (hdt : s.dt = 0#8) (hst : s.st = 0#8) : s.tick = s := by
  have hdt' : countDown s.dt = s.dt := by rw [hdt]; rfl
  have hst' : countDown s.st = s.st := by rw [hst]; rfl
  simp only [tick, hdt', hst']

theorem pc_of_fetchWord {s : State} {w : Word} (hw : s.fetchWord = some w) : s.pc.toNat ≤ 0xFFE :=
  s.fetchWord_isSome.mp (by rw [hw]; rfl)

end State

/-- The `JP` sets `PC` back over the fetch advance, and the tick finds both timers at 0 (70_reset_and_hazards.md R298). -/
theorem step_of_parked {s : State} (h : s.parked) : step s = .next s := by
  obtain ⟨hf, hdt, hst, hw⟩ := h
  have htarget : absoluteTarget (s.pc.setWidth 12) = s.pc :=
    absoluteTarget_setWidth (Nat.le_succ_of_le (State.pc_of_fetchWord hw))
  have hd : decode (0x1000#16 ||| s.pc) = .ok (.jp (s.pc.setWidth 12)) := by
    rw [← decodeOfEncodeIsTheInstruction (.jp (s.pc.setWidth 12)) rfl, encode_jp, htarget]
  have hexec : exec (.jp (s.pc.setWidth 12)) s.advancePc = .next s := by
    simp only [exec, execJp, htarget, State.advancePc, State.setPc]
  rw [step_of_decoded hf hw hd hexec, State.endCycle_of_not_faulted hf, State.tick_of_timers_zero hdt hst]

/-! ### The statements -/

/-- Settles O11, by the cases of the execute step and those of the cycle. -/
theorem everyCycleAnswersANextState : Obligations.EveryCycleAnswersANextState := ⟨exec_answers, step_answers⟩

/-- Settles O12: one cycle answers the parked state itself. -/
theorem parkedMachineNeverChanges : Obligations.ParkedMachineNeverChanges := fun _ k h =>
  run_of_step_eq_self (step_of_parked h) k

/-- Settles O8, one lemma on `step` for each case of the procedure. -/
theorem cycleFollowsTheProcedure : Obligations.CycleFollowsTheProcedure := by
  intro s
  refine ⟨step_of_faulted, fun hf hpc => ⟨_, step_of_fetchRange hf hpc, rfl, s.raiseFetchRange_frame⟩, ?_⟩
  rintro hf hpc w rfl
  have hw := State.fetchWord_of_pc rfl hpc
  exact ⟨fun i t => step_of_decoded hf hw, fun r => step_of_unknown hf hw⟩

/-- Settles O19: the base case of the invariant. -/
theorem resetStateMeetsTheInvariant : Obligations.ResetStateMeetsTheInvariant := State.reset_inv

end Sys2Proof.Machine
end

section
/-! SUPPORT. The host's commands that are no cycle (70_reset_and_hazards.md R280, R283, R296): what each leaves unchanged,
when a ROM fits, and the statements read off them. -/

namespace Sys2Proof.Machine
namespace State

theorem keySet_frame (s : State) (k : Key) (b : Bool) : ChangesOnly (· = .key k) s (s.keySet k b) := by
  intro p hp
  cases p with
  | key j => exact (s.isPressed_keySet k j b).trans (if_neg fun hj => hp (congrArg Part.key hj))
  | _ => rfl

/-- `Reset` carries over the model's own counter alone (log 3). -/
theorem resetAgain_frame (s : State) : ChangesOnly (· = .draws) State.reset s.resetAgain := by
  intro p hp
  cases p with
  | draws => exact absurd rfl hp
  | _ => rfl

/-- `MAX_ROM` is 3584 at the decided `PROGRAM_START` (00_scope.md R10, D1). -/
theorem romFits_iff (bytes : List Byte) : romFits bytes = true ↔ bytes.length ≤ 3584 := decide_eq_true_iff

theorem readByte_writeBytes_outside (s : State) {base : Nat} {bytes : List Byte} (hbase : base + bytes.length ≤ 4096)
    {a : Addr} (ha : ¬ (base ≤ a.toNat ∧ a.toNat < base + bytes.length)) :
    (s.writeBytes base bytes).readByte a = s.readByte a := by
  rw [s.readByte_writeBytes base bytes hbase]
  split
  next hlo => exact List.getD_eq_default _ _ (by omega)
  next => rfl

/-- A ROM that fits touches its own bytes alone (70_reset_and_hazards.md R283). -/
theorem loadRom_frame (s : State) {bytes : List Byte} (hlen : bytes.length ≤ 3584) :
    ChangesOnly (fun p => ∃ a, p = .mem a ∧ 0x200 ≤ a.toNat ∧ a.toNat < 0x200 + bytes.length) s (s.loadRom bytes) := by
  intro p hp
  cases p with
  | mem a => exact s.readByte_writeBytes_outside (base := 0x200) (by omega) fun ha => hp ⟨a, rfl, ha⟩
  | _ => rw [loadRom, writeBytes_eq]; rfl

end State

/-! ### The statements -/

/-- Settles O55: a ROM that fits is a store of its bytes from `PROGRAM_START` on; a longer one fails the check. -/
theorem loadCopiesTheRomOrRejectsIt : Obligations.LoadCopiesTheRomOrRejectsIt := by
  intro bytes s
  refine ⟨fun hlen => ⟨_, if_pos ((State.romFits_iff bytes).mpr hlen), fun k hk => ?_, s.loadRom_frame hlen⟩,
    fun hlen => if_neg fun hfit => ?_⟩
  · exact s.readByte_writeBytes_offset (base := 0x200) (by omega) hk
  · exact absurd ((State.romFits_iff bytes).mp hfit) (by omega)

/-- Settles O54: `KeySet` writes one entry of `KEYS`. -/
theorem keySetChangesOneKey : Obligations.KeySetChangesOneKey := fun k b s =>
  ⟨s.keySet k b, rfl, (s.isPressed_keySet k k b).trans (if_pos rfl), s.keySet_frame k b⟩

/-- Settles O56: `Reset` answers the reset state with the old counter of draws. -/
theorem resetCommandRestoresTheResetState : Obligations.ResetCommandRestoresTheResetState := fun s =>
  ⟨s.resetAgain, rfl, rfl, s.resetAgain_frame⟩

end Sys2Proof.Machine
end
